-- ==== Sys2Proof/Word.lean ====
section
/-!
DEFINITION. The word types of the model: the 32-bit word of the request port, the byte and the nibble that travel
over the data lines (`spec/00_scope.md` R6).  A duration is a natural number of milliseconds.
-/

namespace Sys2Proof

/-- A request word or string word, 32 bits (R67, R71). -/
abbrev Word := BitVec 32

/-- A device byte (R61, R64). -/
abbrev Byte := BitVec 8

/-- What one enable pulse carries on four lines (R6, R65). -/
abbrev Nibble := BitVec 4

end Sys2Proof
end

