-- ==== Sys2Proof/Syntax.lean ====
section
/-!
DEFINITION. The syntax: one constructor of `Instr` per row of spec/opcode_table.json, and the two places an
instruction can be presented at (the request port, the encoder level).
-/

namespace Sys2Proof

/-- The `kind` field of `DCHR` and `STRW` (R69): `kind = 0` an integer code, `kind = 1` a character already mapped
to its code, `kind = 2` and `kind = 3` anything else (the defined no-op).  `other` keeps the low bit of the field. -/
inductive CharKind where
  | code
  | char
  | other (low : Bool)
  deriving DecidableEq, Repr

/-- One element of a string: what one string word carries (R71). -/
structure StrChar where
  kind : CharKind
  code : Byte
  deriving DecidableEq, Repr

/-- The instructions.  The first fifteen are the requests (R68); the rest are the rows below the request level:
the string word, the seven instruction bytes, the data byte and the two raw nibbles (R76). -/
inductive Instr where
  /-- `INIT`, R120. -/
  | init
  /-- `DCHR`, R108. -/
  | dchr (kind : CharKind) (code : Byte)
  /-- `DSTR` with its string words, R109 and R71. -/
  | dstr (chars : List StrChar)
  /-- `CLR`, R101. -/
  | clr
  /-- `HOME`, R102. -/
  | home
  /-- `SCUR`, R134. -/
  | scur (row column : Nat)
  /-- `SDSP`, R104. -/
  | sdsp (on cursor blink : Bool)
  /-- `SENT`, R103. -/
  | sent (increment shift : Bool)
  /-- `BLNK`, R149. -/
  | blnk (on : Bool)
  /-- `CURS`, R150. -/
  | curs (on : Bool)
  /-- `DISP`, R151. -/
  | disp (on : Bool)
  /-- `SCRL`, R153.  The delay is in milliseconds (R69). -/
  | scrl (count : Nat) (delay : Nat)
  /-- `SCRR`, R154. -/
  | scrr (count : Nat) (delay : Nat)
  /-- `CURL`, R155. -/
  | curl (count : Nat) (delay : Nat)
  /-- `CURR`, R156. -/
  | curr (count : Nat) (delay : Nat)
  /-- `STRW`, one character of a string, R71 and R108. -/
  | strw (kind : CharKind) (code : Byte)
  /-- `CLEAR`, R101. -/
  | clear
  /-- `HOME_BYTE`, R102. -/
  | homeByte
  /-- `ENTRY`, R103. -/
  | entry (id s : Bool)
  /-- `DCTRL`, R104. -/
  | dctrl (d c b : Bool)
  /-- `SHIFT`, R105. -/
  | shift (sc rl : Bool)
  /-- `FSET`, R106. -/
  | fset (dl n f : Bool)
  /-- `SDDRA`, R107. -/
  | sddra (address : BitVec 7)
  /-- `DATA`, R108 and R64. -/
  | data (code : Byte)
  /-- `WAKE`, R121. -/
  | wake
  /-- `SET4`, R122. -/
  | set4
  deriving DecidableEq, Repr

/-- A word of one of the formats below the request level, with the format it is in: the format is told by the place
the word stands at (after a `DSTR` header, or on the data lines with `rs`), not by its bits (R60, R76). -/
inductive DeviceWord where
  | strw (w : Word)
  | ir8 (b : Byte)
  | dr8 (b : Byte)
  | raw4 (n : Nibble)
  deriving DecidableEq, Repr

/-- An instruction as it is presented: the words of a request at the request port (R67, R71), or one word at the
encoder level. -/
inductive Presented where
  | request (words : List Word)
  | device (word : DeviceWord)
  deriving DecidableEq, Repr

end Sys2Proof
end

