-- ==== Sys2Proof/WellFormed.lean ====
section
/-!
DEFINITION. Which instructions have an encoding: the operand ranges of `spec/30_encoding.md` R69 and R71.
-/

namespace Sys2Proof

/-- The width `W_ROW` and `W_COUNT` of field `a`: 12 bits (R5, R67). -/
abbrev fieldABound : Nat := 4096

/-- The width `W_COL` and `W_DELAY` of field `b`: 16 bits (R5, R67). -/
abbrev fieldBBound : Nat := 65536

/-- The operands fit their fields.  Operands that are bits or bytes always do. -/
def Instr.wellFormed : Instr → Bool
  | .init => true
  | .dchr _ _ => true
  | .dstr chars => decide (chars.length < fieldABound)
  | .clr => true
  | .home => true
  | .scur row column => decide (row < fieldABound) && decide (column < fieldBBound)
  | .sdsp _ _ _ => true
  | .sent _ _ => true
  | .blnk _ => true
  | .curs _ => true
  | .disp _ => true
  | .scrl count delay => decide (count < fieldABound) && decide (delay < fieldBBound)
  | .scrr count delay => decide (count < fieldABound) && decide (delay < fieldBBound)
  | .curl count delay => decide (count < fieldABound) && decide (delay < fieldBBound)
  | .curr count delay => decide (count < fieldABound) && decide (delay < fieldBBound)
  | .strw _ _ => true
  | .clear => true
  | .homeByte => true
  | .entry _ _ => true
  | .dctrl _ _ _ => true
  | .shift _ _ => true
  | .fset _ _ _ => true
  | .sddra _ => true
  | .data _ => true
  | .wake => true
  | .set4 => true

end Sys2Proof
end

