-- ==== Sys2Proof/Decode.lean ====
section
/-!
DEFINITION. Decoding and encoding.  The request port's words by mask and match (`spec/30_encoding.md` R67 to R74),
the words below the request level by their format's patterns (R61 to R65, R71), and the encoder, written from the
same tables.  Decoding is total; a reserved word is rejected as `reserved`.
-/

namespace Sys2Proof

/-! ## Fields of a 32-bit word -/

/-- `op`, bits 31:28 (R67). -/
def opField (w : Word) : BitVec 4 := w.extractLsb' 28 4

/-- `a`, bits 27:16 (R67). -/
def aField (w : Word) : BitVec 12 := w.extractLsb' 16 12

/-- `b`, bits 15:0 (R67). -/
def bField (w : Word) : BitVec 16 := w.extractLsb' 0 16

/-- `kind`, bits 9:8 of `DCHR` and `STRW` (R69, R71). -/
def kindField (w : Word) : BitVec 2 := w.extractLsb' 8 2

/-- `code`, bits 7:0 of `DCHR` and `STRW` (R69, R71). -/
def codeField (w : Word) : Byte := w.extractLsb' 0 8

/-- The two bits of a `kind` (R69). -/
def kindBits : CharKind → BitVec 2
  | .code => 0b00#2
  | .char => 0b01#2
  | .other low => 0b1#1 ++ BitVec.ofBool low

/-- The `kind` two bits stand for (R69). -/
def kindOfBits (k : BitVec 2) : CharKind :=
  match k.getLsbD 1, k.getLsbD 0 with
  | false, false => .code
  | false, true => .char
  | true, low => .other low

/-! ## Device bytes (R61, R62) -/

/-- `CLEAR`. -/
def clearByte : Byte := 0b00000001#8

/-- `HOME`. -/
def homeByteValue : Byte := 0b00000010#8

/-- `ENTRY`: prefix `0b000001`, then `ID`, `S`. -/
def entryByte (id s : Bool) : Byte := 0b000001#6 ++ BitVec.ofBool id ++ BitVec.ofBool s

/-- `DCTRL`: prefix `0b00001`, then `D`, `C`, `B`. -/
def dctrlByte (d c b : Bool) : Byte := 0b00001#5 ++ BitVec.ofBool d ++ BitVec.ofBool c ++ BitVec.ofBool b

/-- `SHIFT`: prefix `0b0001`, then `SC`, `RL`, then two zero bits. -/
def shiftByte (sc rl : Bool) : Byte := 0b0001#4 ++ BitVec.ofBool sc ++ BitVec.ofBool rl ++ 0b00#2

/-- `FSET`: prefix `0b001`, then `DL`, `N`, `F`, then two zero bits. -/
def fsetByte (dl n f : Bool) : Byte := 0b001#3 ++ BitVec.ofBool dl ++ BitVec.ofBool n ++ BitVec.ofBool f ++ 0b00#2

/-- `SDDRA`: the high bit set, then the 7-bit address. -/
def sddraByte (address : BitVec 7) : Byte := 0b1#1 ++ address

/-- The raw nibble of `INIT` step 1 (R65, R121). -/
def wakeNibble : Nibble := 0b0011#4

/-- The raw nibble of `INIT` step 2 (R65, R122). -/
def set4Nibble : Nibble := 0b0010#4

/-! ## Decoding below the request level -/

/-- The instruction byte patterns of R61, as mask and match over the byte; `none` for a byte the block never emits
(R66). -/
def decodeIr8 (b : Byte) : Option Instr :=
  if b &&& 0xFF#8 = 0x01#8 then some .clear
  else if b &&& 0xFF#8 = 0x02#8 then some .homeByte
  else if b &&& 0xFC#8 = 0x04#8 then some (.entry (b.getLsbD 1) (b.getLsbD 0))
  else if b &&& 0xF8#8 = 0x08#8 then some (.dctrl (b.getLsbD 2) (b.getLsbD 1) (b.getLsbD 0))
  else if b &&& 0xF3#8 = 0x10#8 then some (.shift (b.getLsbD 3) (b.getLsbD 2))
  else if b &&& 0xE3#8 = 0x20#8 then some (.fset (b.getLsbD 4) (b.getLsbD 3) (b.getLsbD 2))
  else if b &&& 0x80#8 = 0x80#8 then some (.sddra (b.extractLsb' 0 7))
  else none

/-- The two raw nibbles (R65). -/
def decodeRaw4 (n : Nibble) : Option Instr :=
  if n = wakeNibble then some .wake
  else if n = set4Nibble then some .set4
  else none

/-- A string word: `STRW[31:10] = 0`, else reserved (R71, R74 step 3). -/
def decodeStrw (w : Word) : Option StrChar :=
  if w &&& 0xFFFFFC00#32 = 0x00000000#32 then some { kind := kindOfBits (kindField w), code := codeField w }
  else none

/-- One word of a known format (R76). -/
def decodeDevice : DeviceWord → Option Instr
  | .strw w => (decodeStrw w).map fun c => .strw c.kind c.code
  | .ir8 b => decodeIr8 b
  | .dr8 b => some (.data b)
  | .raw4 n => decodeRaw4 n

/-! ## Decoding at the request port -/

/-- What the first word of a request says (R71: the length is told by the first word alone). -/
inductive Head where
  /-- A reserved word (R70). -/
  | reserved
  /-- A request of one word. -/
  | whole (i : Instr)
  /-- A `DSTR` header, with the number of string words that follow. -/
  | string (len : Nat)
  deriving DecidableEq, Repr

/-- Steps 1, 2 and 4 of R74, row by row of R69's table of mask and match. -/
def decodeHead (w : Word) : Head :=
  let row (mask pattern : Word) (h : Head) : Head := if w &&& mask = pattern then h else .reserved
  match (opField w).toNat with
  | 0x0 => row 0xFFFFFFFF#32 0x00000000#32 (.whole .init)
  | 0x1 => row 0xFFFFFC00#32 0x10000000#32 (.whole (.dchr (kindOfBits (kindField w)) (codeField w)))
  | 0x2 => row 0xF000FFFF#32 0x20000000#32 (.string (aField w).toNat)
  | 0x3 => row 0xFFFFFFFF#32 0x30000000#32 (.whole .clr)
  | 0x4 => row 0xFFFFFFFF#32 0x40000000#32 (.whole .home)
  | 0x5 => row 0xF0000000#32 0x50000000#32 (.whole (.scur (aField w).toNat (bField w).toNat))
  | 0x6 => row 0xFFFFFFF8#32 0x60000000#32 (.whole (.sdsp (w.getLsbD 2) (w.getLsbD 1) (w.getLsbD 0)))
  | 0x7 => row 0xFFFFFFFC#32 0x70000000#32 (.whole (.sent (w.getLsbD 1) (w.getLsbD 0)))
  | 0x8 => row 0xFFFFFFFE#32 0x80000000#32 (.whole (.blnk (w.getLsbD 0)))
  | 0x9 => row 0xFFFFFFFE#32 0x90000000#32 (.whole (.curs (w.getLsbD 0)))
  | 0xA => row 0xFFFFFFFE#32 0xA0000000#32 (.whole (.disp (w.getLsbD 0)))
  | 0xB => row 0xF0000000#32 0xB0000000#32 (.whole (.scrl (aField w).toNat (bField w).toNat))
  | 0xC => row 0xF0000000#32 0xC0000000#32 (.whole (.scrr (aField w).toNat (bField w).toNat))
  | 0xD => row 0xF0000000#32 0xD0000000#32 (.whole (.curl (aField w).toNat (bField w).toNat))
  | 0xE => row 0xF0000000#32 0xE0000000#32 (.whole (.curr (aField w).toNat (bField w).toNat))
  | _ => .reserved

/-- What the words presented at the port amount to. -/
inductive PortRead where
  /-- Nothing presented, or a `DSTR` whose string words have not all been presented yet. -/
  | waiting
  /-- A reserved request, consumed (R70); the words behind it. -/
  | reserved (rest : List Word)
  /-- A request, and the words behind it. -/
  | request (i : Instr) (rest : List Word)
  deriving DecidableEq, Repr

/-- R74 on the words of the port.  A reserved first word is consumed by itself; a reserved string word makes the
whole `DSTR` reserved (R71), and all its words are consumed (log entry 11). -/
def decodePort : List Word → PortRead
  | [] => .waiting
  | w :: rest =>
    match decodeHead w with
    | .reserved => .reserved rest
    | .whole i => .request i rest
    | .string len =>
      if rest.length < len then .waiting
      else
        match (rest.take len).mapM decodeStrw with
        | none => .reserved (rest.drop len)
        | some chars => .request (.dstr chars) (rest.drop len)

/-- The instruction that is presented, when exactly one is. -/
def decode : Presented → Option Instr
  | .request words =>
    match decodePort words with
    | .request i [] => some i
    | _ => none
  | .device word => decodeDevice word

/-! ## Encoding -/

/-- A request word from its fields (R67). -/
def requestWord (op : BitVec 4) (a : BitVec 12) (b : BitVec 16) : Word := op ++ a ++ b

/-- The string word of one character (R71). -/
def strWord (c : StrChar) : Word := 0#22 ++ kindBits c.kind ++ c.code

/-- The words of an instruction, by R68, R69, R71 for requests and R61, R64, R65, R71 below the request level. -/
def encode : Instr → Presented
  | .init => .request [requestWord 0x0#4 0#12 0#16]
  | .dchr kind code => .request [requestWord 0x1#4 0#12 (0#6 ++ kindBits kind ++ code)]
  | .dstr chars => .request (requestWord 0x2#4 (BitVec.ofNat 12 chars.length) 0#16 :: chars.map strWord)
  | .clr => .request [requestWord 0x3#4 0#12 0#16]
  | .home => .request [requestWord 0x4#4 0#12 0#16]
  | .scur row column => .request [requestWord 0x5#4 (BitVec.ofNat 12 row) (BitVec.ofNat 16 column)]
  | .sdsp on cursor blink =>
    .request [requestWord 0x6#4 0#12 (0#13 ++ BitVec.ofBool on ++ BitVec.ofBool cursor ++ BitVec.ofBool blink)]
  | .sent increment shift =>
    .request [requestWord 0x7#4 0#12 (0#14 ++ BitVec.ofBool increment ++ BitVec.ofBool shift)]
  | .blnk on => .request [requestWord 0x8#4 0#12 (0#15 ++ BitVec.ofBool on)]
  | .curs on => .request [requestWord 0x9#4 0#12 (0#15 ++ BitVec.ofBool on)]
  | .disp on => .request [requestWord 0xA#4 0#12 (0#15 ++ BitVec.ofBool on)]
  | .scrl count delay => .request [requestWord 0xB#4 (BitVec.ofNat 12 count) (BitVec.ofNat 16 delay)]
  | .scrr count delay => .request [requestWord 0xC#4 (BitVec.ofNat 12 count) (BitVec.ofNat 16 delay)]
  | .curl count delay => .request [requestWord 0xD#4 (BitVec.ofNat 12 count) (BitVec.ofNat 16 delay)]
  | .curr count delay => .request [requestWord 0xE#4 (BitVec.ofNat 12 count) (BitVec.ofNat 16 delay)]
  | .strw kind code => .device (.strw (strWord { kind := kind, code := code }))
  | .clear => .device (.ir8 clearByte)
  | .homeByte => .device (.ir8 homeByteValue)
  | .entry id s => .device (.ir8 (entryByte id s))
  | .dctrl d c b => .device (.ir8 (dctrlByte d c b))
  | .shift sc rl => .device (.ir8 (shiftByte sc rl))
  | .fset dl n f => .device (.ir8 (fsetByte dl n f))
  | .sddra address => .device (.ir8 (sddraByte address))
  | .data code => .device (.dr8 code)
  | .wake => .device (.raw4 wakeNibble)
  | .set4 => .device (.raw4 set4Nibble)

/-! ## Words of the opcode table -/

/-- The string words, all zero, that a header asks for. -/
def zeroStringWords : Head → List Word
  | .string len => List.replicate len 0#32
  | _ => []

/-- Where a number of the opcode table is presented, given only how many bits its row has.  The table's formats share
numbers (`STRW` with `INIT`; `IR8`, `DR8` and `RAW4` with each other), so a bare number is given the first format
below that has it (log entry 7): 32 bits: a request, else a string word; 8 bits: an instruction byte, else the raw
nibble `0b0011`, else a data byte; 4 bits: a raw nibble. -/
def presentTableWord (nbits w : Nat) : Presented :=
  if nbits ≤ 4 then .device (.raw4 (BitVec.ofNat 4 w))
  else if nbits ≤ 8 then
    if (decodeIr8 (BitVec.ofNat 8 w)).isSome then .device (.ir8 (BitVec.ofNat 8 w))
    else if BitVec.ofNat 8 w = 0x03#8 then .device (.raw4 wakeNibble)
    else .device (.dr8 (BitVec.ofNat 8 w))
  else
    if decodeHead (BitVec.ofNat 32 w) = .reserved ∧ (decodeStrw (BitVec.ofNat 32 w)).isSome then
      .device (.strw (BitVec.ofNat 32 w))
    else .request (BitVec.ofNat 32 w :: zeroStringWords (decodeHead (BitVec.ofNat 32 w)))

/-- The instruction the decoder reads from a number of the opcode table. -/
def decodeTableWord (nbits w : Nat) : Option Instr := decode (presentTableWord nbits w)

end Sys2Proof
end

