-- ==== Sys2Proof/Config.lean ====
section
/-!
DEFINITION. What is fixed at construction: the configuration registers, the pin roles, and the parameters a
construction takes (`spec/00_scope.md` R5, `spec/10_state.md` R11 to R17).  The model has no free value: the spec
leaves no result of a performed request open.
-/

namespace Sys2Proof

/-- `CFG.BUSW` (R11). -/
inductive BusWidth where
  | fourBit
  | eightBit
  deriving DecidableEq, Repr

/-- `CFG.ROWS`, the row count after normalisation (R12). -/
inductive Rows where
  | one
  | two
  | four
  deriving DecidableEq, Repr

/-- `CFG.FONT` (R14). -/
inductive Font where
  | f5x8
  | f5x10
  deriving DecidableEq, Repr

/-- `DATA_PIN_ORDER`: whether the first pin of the construction list carries the most or the least significant bit
(R5, D12; open, so an argument of construction). -/
inductive DataPinOrder where
  | msbFirstList
  | lsbFirstList
  deriving DecidableEq, Repr

/-- A logical pin role (R8, R15).  `d k` is the line that carries bit `k` of the value on the bus. -/
inductive Role where
  | rs
  | rw
  | e
  | d (k : Fin 8)
  deriving DecidableEq, Repr

/-- A platform pin identifier: opaque to the block, which only passes it on (R15). -/
abbrev PinId := Nat

/-- The parameters of a construction (R191, R5).  The three durations have the defaults of R5. -/
structure ConstructionParams where
  rsPin : PinId
  /-- Absent when the read/write line is not wired. -/
  rwPin : Option PinId
  ePin : PinId
  dataPins : List PinId
  dataPinOrder : DataPinOrder
  rowCount : Nat
  columns : Nat
  busWidth : BusWidth
  font : Font
  tSettle : Nat := 10
  tInit1 : Nat := 50
  tInit23 : Nat := 10
  deriving DecidableEq, Repr

/-- The configuration registers (R11 to R16).  No request writes one (R17). -/
structure Cfg where
  /-- `CFG.BUSW` -/
  busw : BusWidth
  /-- `CFG.ROWS_RAW`, read by nothing after construction (R12). -/
  rowsRaw : Nat
  /-- `CFG.ROWS` -/
  rows : Rows
  /-- `CFG.COLS`, read by nothing (R13). -/
  cols : Nat
  /-- `CFG.FONT` -/
  font : Font
  /-- `CFG.RW_WIRED` -/
  rwWired : Bool
  /-- `CFG.PINS`, in the order `RS`, `RW` if wired, `E`, data lines from the highest down. -/
  pins : List (Role × PinId)
  /-- `T_SETTLE` -/
  tSettle : Nat
  /-- `T_INIT1` -/
  tInit1 : Nat
  /-- `T_INIT23` -/
  tInit23 : Nat
  deriving DecidableEq, Repr

end Sys2Proof
end

