-- ==== Sys2Proof/Machine/State.lean ====
section
/-!
DEFINITION. The state of the block as plain data, the reasons a step can stop, and the state after reset
(`spec/10_state.md`; the list of every field with its rule is INVENTORY.md's State section).
-/

namespace Sys2Proof.Machine

/-- A call of a platform primitive (R8). -/
inductive Event where
  /-- `setPinMode(CFG.PINS[role], OUTPUT)`; construction only (R192). -/
  | mode (role : Role)
  /-- `writePin(CFG.PINS[role], v)`. -/
  | pin (role : Role) (v : Bool)
  /-- `sleep(d)`, `d` in milliseconds: the next event comes no sooner than `d` after this one (R96). -/
  | sleep (d : Nat)
  deriving DecidableEq, Repr

/-- What an event means for the ghost `NPH` (R26, R44, R122; log entry 4). -/
inductive PhaseMark where
  /-- Nothing. -/
  | none
  /-- The device takes half a byte: `NPH` goes to the other value (R92). -/
  | half
  /-- The device takes a raw nibble, which is not half a byte (R122): `NPH` is not known. -/
  | raw
  /-- The end of `INIT` step 2: `NPH` is 0 (R122). -/
  | framed
  deriving DecidableEq, Repr

/-- One step of a trace: the event it emits and what that means for `NPH`. -/
structure Beat where
  event : Event
  mark : PhaseMark
  deriving DecidableEq, Repr

/-- `NPH` (R26): the nibble the device expects next in 4-bit operation, high (0) or low (1), or not known (R29,
R184). -/
inductive NibblePhase where
  | high
  | low
  | unknown
  deriving DecidableEq, Repr

/-- `SEQ`, the sequencer position (R23). -/
inductive Seq where
  | idle
  /-- `BUSY(events, i)`: the trace of the operation in progress and the index of the next event to emit. -/
  | busy (events : List Beat) (i : Nat)
  deriving DecidableEq, Repr

/-- `LC`, the lifecycle phase (R24). -/
inductive Lifecycle where
  | preInit
  | initialising
  | ready
  deriving DecidableEq, Repr

/-- The display-state mirror (R18).  `none` is the spec's "holds no value" (R20, R29; log entry 5). -/
structure Mirror where
  /-- `M.D`, display on. -/
  d : Option Bool
  /-- `M.C`, cursor on. -/
  c : Option Bool
  /-- `M.B`, blink on. -/
  b : Option Bool
  /-- `M.ID`, increment. -/
  id : Option Bool
  /-- `M.S`, display shift on. -/
  s : Option Bool
  deriving DecidableEq, Repr

/-- The pin latches (R22).  `none` is the spec's "undriven" (R22, R29; log entry 5). -/
structure Latches where
  /-- `P.RS` -/
  rs : Option Bool
  /-- `P.RW` -/
  rw : Option Bool
  /-- `P.E` -/
  e : Option Bool
  /-- `P.D[k]` -/
  d : Vector (Option Bool) 8
  deriving DecidableEq, Repr

/-- The reason codes of the model-level outcomes (R172). -/
inductive ReasonCode where
  /-- `OUT_OF_DOMAIN`: `SCUR` outside the address calculator's domain (R133). -/
  | outOfDomain
  /-- `MIRROR_UNWRITTEN`: a partial setter reads a mirror flag that holds no value (R20). -/
  | mirrorUnwritten
  /-- `RESERVED_REQUEST`: a reserved request word (R70). -/
  | reservedRequest
  /-- `BAD_CONFIGURATION`: a data pin list of the wrong length at construction (R193). -/
  | badConfiguration
  /-- `PRE_INIT_COMMAND`: a request other than `INIT` accepted before `INIT` (R127). -/
  | preInitCommand
  /-- `STALE_MIRROR`: a request other than `INIT` accepted while `MIRROR_STALE = 1` (R184). -/
  | staleMirror
  deriving DecidableEq, Repr

/-- The three outcomes of accepting a request, kept distinct (R176). -/
inductive RequestOutcome where
  | performed
  | performedWithViolation (codes : List ReasonCode)
  | refused (code : ReasonCode)
  deriving DecidableEq, Repr

/-- What the environment does before a step (log entry 12). -/
inductive EnvAction where
  /-- Nothing: the block makes its step. -/
  | quiet
  /-- `DEV_RESET`: the LCD controller loses power or is reset (R184). -/
  | devReset
  /-- The block is constructed again: its reset (R190, R199). -/
  | construct (params : ConstructionParams)
  deriving DecidableEq, Repr

/-- The state of the block (R10), with its outputs and the inputs that wait at its interface. -/
structure State where
  /-- `CFG` and `T_SETTLE` (R11 to R17). -/
  cfg : Cfg
  /-- `M` (R18). -/
  mirror : Mirror
  /-- `P` (R22). -/
  latches : Latches
  /-- `SEQ` (R23). -/
  seq : Seq
  /-- `LC` (R24). -/
  lc : Lifecycle
  /-- `VIOL.PREINIT` (R25). -/
  violPreinit : Bool
  /-- `VIOL.STALE` (R25). -/
  violStale : Bool
  /-- `ERR.RSVD` (R25). -/
  errRsvd : Bool
  /-- `NPH` (R26). -/
  nph : NibblePhase
  /-- `MIRROR_STALE` (R26). -/
  mirrorStale : Bool
  /-- Whether a `DEV_RESET` occurred since the `INIT` in progress was accepted (R184). -/
  devResetSeen : Bool
  /-- How the last request that was accepted ended (R176); `none` before the first. -/
  outcome : Option RequestOutcome
  /-- The run is marked: some request of it was refused (R176); a construction in the run leaves the mark (log
entries 1 and 13). -/
  refusedRun : Bool
  /-- The output trace, in the order of emission, without the `Mode` events (R7, R8). -/
  out : List Event
  /-- The `Mode` events of the construction of this instance, a set kept in one fixed order (R192); they have no place
relative to `out`, and a second construction replaces them (DESIGN CHOICE, log entry 16). -/
  modes : List Event
  /-- The words presented at the request port and not yet taken (R67). -/
  port : List Word
  /-- A word presented at the encoder level (R9; log entry 6). -/
  call : Option DeviceWord
  /-- What the environment does before the coming steps; nothing once the list is used up (log entry 12). -/
  env : List EnvAction
  deriving DecidableEq, Repr

/-- Why the machine stops with a fault.  The hardware raises none (R170). -/
inductive Fault where
  /-- Raised by the environment's construction with a data pin list of the wrong length: no instance exists, so
  there is no next state (R193, U3).  Safe: nothing is claimed of a block that does not exist (log entry 14). -/
  | badConfiguration
  deriving DecidableEq, Repr

/-- Why a step has no meaning. -/
inductive Refusal where
  /-- An instruction of the opcode table that has no meaning yet; raised by an arm of `exec` alone.  Safe. -/
  | notModelled (mnemonic : String)
  /-- Raised by the fetch of the encoder-level entry when the word there is none of its format's patterns: the block
  never emits such a word (R66), no request leads to one, and the spec gives it no meaning (D38).  Safe. -/
  | notADeviceWord
  deriving DecidableEq, Repr

/-- The outcome of a step or of a meaning. -/
abbrev Result := Host.Outcome State Fault Refusal

/-- No line driven yet (R22). -/
def Latches.undriven : Latches := { rs := none, rw := none, e := none, d := Vector.replicate 8 none }

/-- No flag written yet (R20). -/
def Mirror.unwritten : Mirror := { d := none, c := none, b := none, id := none, s := none }

/-- The parameters of the instance that `State.reset` is: the spec gives no default for them (R5), log entry 2. -/
def resetParams : ConstructionParams :=
  { rsPin := 0, rwPin := some 1, ePin := 2, dataPins := [3, 4, 5, 6], dataPinOrder := .msbFirstList,
    rowCount := 2, columns := 16, busWidth := .fourBit, font := .f5x8 }

/-- The state right after construction (R29), for the parameters `resetParams`. -/
def State.reset : State :=
  { cfg :=
      { busw := .fourBit, rowsRaw := 2, rows := .two, cols := 16, font := .f5x8, rwWired := true,
        pins := [(.rs, 0), (.rw, 1), (.e, 2), (.d 3, 3), (.d 2, 4), (.d 1, 5), (.d 0, 6)],
        tSettle := 10, tInit1 := 50, tInit23 := 10 }
    mirror := .unwritten
    latches := .undriven
    seq := .idle
    lc := .preInit
    violPreinit := false
    violStale := false
    errRsvd := false
    nph := .unknown
    mirrorStale := false
    devResetSeen := false
    outcome := none
    refusedRun := false
    out := []
    modes := [.mode .rs, .mode .rw, .mode .e, .mode (.d 3), .mode (.d 2), .mode (.d 1), .mode (.d 0)]
    port := []
    call := none
    env := [] }

end Sys2Proof.Machine
end

