-- ==== Sys2Proof/Machine/Operands.lean ====
section
/-!
DEFINITION. Operand forms: the halves of a byte and the bits on the data lines (`spec/20_memory.md` R42), the wired
roles (`spec/10_state.md` R15), the row normalisation (R12), character operands (`spec/41_command_encoder.md` R108),
and the DDRAM address calculator (`spec/43_addressing.md` R130 to R135).
-/

namespace Sys2Proof.Machine

/-! ## Bits on the data lines -/

/-- `b[7:4]` (R6). -/
def highNibble (b : Byte) : Nibble := b.extractLsb' 4 4

/-- `b[3:0]` (R6). -/
def lowNibble (b : Byte) : Nibble := b.extractLsb' 0 4

/-- The levels of `D[3]` to `D[0]`, in the order they are written: most significant first (R42). -/
def nibbleLines (n : Nibble) : List (Fin 8 × Bool) :=
  [(3, n.getLsbD 3), (2, n.getLsbD 2), (1, n.getLsbD 1), (0, n.getLsbD 0)]

/-- The levels of `D[7]` to `D[0]`, in the order they are written: most significant first (R42). -/
def byteLines (b : Byte) : List (Fin 8 × Bool) :=
  [(7, b.getLsbD 7), (6, b.getLsbD 6), (5, b.getLsbD 5), (4, b.getLsbD 4),
   (3, b.getLsbD 3), (2, b.getLsbD 2), (1, b.getLsbD 1), (0, b.getLsbD 0)]

/-! ## Roles and configuration -/

/-- The data lines of a bus width, from the highest down (R15). -/
def dataRoles : BusWidth → List Role
  | .fourBit => [.d 3, .d 2, .d 1, .d 0]
  | .eightBit => [.d 7, .d 6, .d 5, .d 4, .d 3, .d 2, .d 1, .d 0]

/-- The wired roles (R8, R15), in one fixed order. -/
def wiredRoles (busw : BusWidth) (rwWired : Bool) : List Role :=
  .rs :: ((if rwWired then [.rw] else []) ++ .e :: dataRoles busw)

/-- `CFG.ROWS` from `CFG.ROWS_RAW` (R12). -/
def normaliseRows : Nat → Rows
  | 1 => .one
  | 2 => .two
  | _ => .four

/-- How many data pins a bus width needs (R193). -/
def dataPinCount : BusWidth → Nat
  | .fourBit => 4
  | .eightBit => 8

/-- `CFG.PINS` from the construction parameters (R15, `DATA_PIN_ORDER` of R5). -/
def assignPins (p : ConstructionParams) : List (Role × PinId) :=
  let listed := match p.dataPinOrder with
    | .msbFirstList => p.dataPins
    | .lsbFirstList => p.dataPins.reverse
  let readWrite := match p.rwPin with
    | some pin => [(Role.rw, pin)]
    | none => []
  (.rs, p.rsPin) :: (readWrite ++ (.e, p.ePin) :: (dataRoles p.busWidth).zip listed)

/-! ## Character operands -/

/-- Whether a character operand is sent: an integer code or a character is, anything else is the defined no-op
(R108). -/
def kindSends : CharKind → Bool
  | .code => true
  | .char => true
  | .other _ => false

/-! ## The address calculator -/

/-- The row count as a number. -/
def rowCount : Rows → Nat
  | .one => 1
  | .two => 2
  | .four => 4

/-- `maxcol` (R131). -/
def maxColumn : Rows → Nat
  | .one => 80
  | .two => 40
  | .four => 20

/-- `offset(row)` (R132).  The source gives offsets for rows 1 to 4 only. -/
def rowOffset : Nat → Option Nat
  | 1 => some 0
  | 2 => some 0x40
  | 3 => some 20
  | 4 => some (0x40 + 20)
  | _ => none

/-- `computeDDRAMAddress(row, column)` (R130), with its domain (R133): `none` outside. -/
def computeDDRAMAddress (rows : Rows) (row column : Nat) : Option Nat :=
  if row = 0 ∨ rowCount rows < row ∨ column = 0 then none
  else (rowOffset row).map fun offset => (min column (maxColumn rows) - 1) + offset

end Sys2Proof.Machine
end

