-- ==== Sys2Proof/Machine/Flags.lean ====
section
/-!
DEFINITION. The flags: the function-set bits of the configuration (`spec/30_encoding.md` R63), the register views
(`spec/10_state.md` R21), the writes of the mirror (R18), and the lifecycle flags set when a request is accepted
(R25, `spec/44_public_ops.md` R141).
-/

namespace Sys2Proof.Machine

/-! ## Function-set bits -/

/-- `DL` (R63). -/
def dlBit : BusWidth → Bool
  | .fourBit => false
  | .eightBit => true

/-- `N` (R63). -/
def nBit : Rows → Bool
  | .one => false
  | .two => true
  | .four => true

/-- `F` (R63). -/
def fBit : Font → Bool
  | .f5x8 => false
  | .f5x10 => true

/-! ## Register views (R21) -/

/-- `FSR`, the function-set image. -/
def functionSetImage (cfg : Cfg) : Byte := fsetByte (dlBit cfg.busw) (nBit cfg.rows) (fBit cfg.font)

/-- `DCR`, the display-control image, when the three flags hold a value. -/
def Mirror.dcr (m : Mirror) : Option Byte :=
  match m.d, m.c, m.b with
  | some d, some c, some b => some (dctrlByte d c b)
  | _, _, _ => none

/-- `EMR`, the entry-mode image, when the two flags hold a value. -/
def Mirror.emr (m : Mirror) : Option Byte :=
  match m.id, m.s with
  | some id, some s => some (entryByte id s)
  | _, _ => none

/-! ## Writes of the mirror -/

/-- `M.D`, `M.C`, `M.B` are always written together (R104). -/
def Mirror.setDisplay (d c b : Bool) (m : Mirror) : Mirror := { m with d := some d, c := some c, b := some b }

/-- `M.ID`, `M.S` are always written together (R103). -/
def Mirror.setEntry (id s : Bool) (m : Mirror) : Mirror := { m with id := some id, s := some s }

/-! ## Lifecycle flags -/

/-- The violation codes a request other than `INIT` earns when it is accepted (R141 step 2, R172). -/
def State.violations (s : State) : List ReasonCode :=
  (if s.lc = .preInit then [.preInitCommand] else []) ++ (if s.mirrorStale then [.staleMirror] else [])

/-- The outcome of a request that is performed (R176). -/
def outcomeOf : List ReasonCode → RequestOutcome
  | [] => .performed
  | codes => .performedWithViolation codes

/-- R141 step 2 for a request other than `INIT`: the sticky flags, and the outcome should it be performed. -/
def State.noteLifecycle (s : State) : State :=
  { s with
    violPreinit := s.violPreinit || decide (s.lc = .preInit)
    violStale := s.violStale || s.mirrorStale
    outcome := some (outcomeOf s.violations) }

/-- What accepting `INIT` sets (R24, R120): `LC`, and the start of the watch for a `DEV_RESET` (R184).  `INIT` sets no
violation flag (R141). -/
def State.beginInit (s : State) : State :=
  { s with lc := .initialising, devResetSeen := false, outcome := some .performed }

end Sys2Proof.Machine
end

