-- ==== Sys2Proof/Machine/Ops.lean ====
section
/-!
DEFINITION. The shared operations: driving a pin latch, the three transfers (`spec/40_bus_transfer.md` R90 to R92),
putting a trace into the sequencer and emitting one event of it (R95), accepting and refusing a request
(`spec/44_public_ops.md` R141, `spec/60_exceptions.md` R176), construction (`spec/70_reset_and_hazards.md` R191) and
the device reset (R184).

The block takes no exception and returns from none (R170, R173, R176, R178).  What stands in their place is
`State.refuse`, the one shared operation for a request that is refused.
-/

namespace Sys2Proof.Machine

/-! ## Single fields -/

/-- `SEQ <- q` (R7). -/
def State.setSeq (q : Seq) (s : State) : State := { s with seq := q }

/-- `M <- m` (R7). -/
def State.setMirror (m : Mirror) (s : State) : State := { s with mirror := m }

/-- The words left at the request port (R67). -/
def State.setPort (words : List Word) (s : State) : State := { s with port := words }

/-- The encoder-level entry, emptied. -/
def State.clearCall (s : State) : State := { s with call := none }

/-- What the environment still does. -/
def State.setEnv (actions : List EnvAction) (s : State) : State := { s with env := actions }

/-! ## Pin latches (R22) -/

/-- The level last driven on a role. -/
def Latches.level (l : Latches) : Role → Option Bool
  | .rs => l.rs
  | .rw => l.rw
  | .e => l.e
  | .d k => l.d[k]

/-- `P.role <- v`. -/
def Latches.write (role : Role) (v : Bool) (l : Latches) : Latches :=
  match role with
  | .rs => { l with rs := some v }
  | .rw => { l with rw := some v }
  | .e => { l with e := some v }
  | .d k => { l with d := l.d.set k (some v) }

/-- What an event does to the latches: a `Pin` event sets one, the others set none (R22). -/
def Latches.drive (l : Latches) : Event → Latches
  | .pin role v => l.write role v
  | .mode _ => l
  | .sleep _ => l

/-- What an event means for the nibble phase (log entry 4).  `framed` makes it known only within an `INIT` that no
device reset has disturbed (R122, R184). -/
def State.phaseAfter (mark : PhaseMark) (s : State) : NibblePhase :=
  match mark with
  | .none => s.nph
  | .half =>
    match s.nph with
    | .high => .low
    | .low => .high
    | .unknown => .unknown
  | .raw => .unknown
  | .framed => if s.lc = .initialising ∧ s.devResetSeen = false then .high else .unknown

/-! ## Transfers -/

/-- An event that means nothing for the nibble phase. -/
def plain (e : Event) : Beat := { event := e, mark := .none }

/-- The shape of every transfer (R90, R91, R94): `RS`, `RW` if wired, `E` high, the data lines, `E` low, one `Sleep`.
`fall` and `settle` say what the falling edge and the end of the delay mean for the nibble phase. -/
def pulse (cfg : Cfg) (rs rw : Bool) (lines : List (Fin 8 × Bool)) (d : Nat) (fall settle : PhaseMark) : List Beat :=
  plain (.pin .rs rs) ::
    ((if cfg.rwWired then [plain (.pin .rw rw)] else []) ++
      plain (.pin .e true) ::
        (lines.map (fun line => plain (.pin (.d line.1) line.2)) ++
          [{ event := .pin .e false, mark := fall }, { event := .sleep d, mark := settle }]))

/-- `transfer4(rs, rw, n, d)` (R90) as half of a byte. -/
def transfer4 (cfg : Cfg) (rs rw : Bool) (n : Nibble) (d : Nat) : List Beat :=
  pulse cfg rs rw (nibbleLines n) d .half .none

/-- `transfer4(0, 0, n, d)` as a raw nibble (R65).  `settle` is `framed` at the end of `INIT` step 2 (R122). -/
def rawTransfer4 (cfg : Cfg) (n : Nibble) (d : Nat) (settle : PhaseMark) : List Beat :=
  pulse cfg false false (nibbleLines n) d .raw settle

/-- `transfer8(rs, rw, b, d)` (R91).  `NPH` is for 4-bit operation only (R26, R44); DESIGN CHOICE, log entry 25: an
8-bit pulse leaves it as it was, also where an earlier 4-bit instance left it known. -/
def transfer8 (cfg : Cfg) (rs rw : Bool) (b : Byte) (d : Nat) : List Beat :=
  pulse cfg rs rw (byteLines b) d .none .none

/-- `transferByte(rs, rw, b)` (R92). -/
def transferByte (cfg : Cfg) (rs rw : Bool) (b : Byte) : List Beat :=
  match cfg.busw with
  | .eightBit => transfer8 cfg rs rw b cfg.tSettle
  | .fourBit =>
    transfer4 cfg rs rw (highNibble b) cfg.tSettle ++ transfer4 cfg rs rw (lowNibble b) cfg.tSettle

/-! ## The sequencer -/

/-- Gives a trace to the sequencer: an idle sequencer starts on it, unless it is empty (R95); to an operation in
progress it is added at the end (an operation is the list of its transfers, in order). -/
def Seq.append (t : List Beat) : Seq → Seq
  | .idle =>
    match t with
    | [] => .idle
    | _ :: _ => .busy t 0
  | .busy events i => .busy (events ++ t) i

/-- The operation's next part is the trace `t`. -/
def State.issue (t : List Beat) (s : State) : State := s.setSeq (s.seq.append t)

/-- Emits one event (R7, R95): appended to the output trace, its latch set. -/
def State.emit (beat : Beat) (s : State) : State :=
  { s with
    out := s.out ++ [beat.event]
    latches := s.latches.drive beat.event
    nph := s.phaseAfter beat.mark }

/-- After the last event: `IDLE`; at the end of `INIT` also `LC <- READY`, and `MIRROR_STALE <- 0` unless a
`DEV_RESET` occurred since acceptance (R120, R184). -/
def State.complete (s : State) : State :=
  match s.lc with
  | .initialising => { s with seq := .idle, lc := .ready, mirrorStale := s.mirrorStale && s.devResetSeen }
  | .preInit => { s with seq := .idle }
  | .ready => { s with seq := .idle }

/-- One step of a busy sequencer: emits `events[i]`, then `i <- i + 1`, and `IDLE` after the last event (R23, R95). -/
def State.advance (events : List Beat) (i : Nat) (s : State) : State :=
  match events[i]? with
  | none => s.complete
  | some beat =>
    if i + 1 < events.length then (s.emit beat).setSeq (.busy events (i + 1))
    else (s.emit beat).complete

/-! ## Accepting and refusing a request -/

/-- A request that is refused (R176): at acceptance, before any event; nothing is sent, the run is marked, and the
outcome says why.  The flags set before it stay set (R175; log entry 1). -/
def State.refuse (code : ReasonCode) (s : State) : State :=
  { s with outcome := some (.refused code), refusedRun := true }

/-- R141, steps 2 to 4, for a request whose flags are set by `note` and whose checks, mirror writes and trace are
`body`.  A request is accepted in `IDLE` only; while the sequencer is busy it waits, and nothing happens (log
entry 19). -/
def State.accept (note : State → State) (body : State → Except ReasonCode State) (s : State) : Result :=
  match s.seq with
  | .busy _ _ => .next s
  | .idle =>
    match body (note s) with
    | .ok t => .next t
    | .error code => .next ((note s).refuse code)

/-- A reserved request is consumed: `ERR.RSVD <- 1`, refused, and nothing else (R70, R141 step 1). -/
def State.refuseReserved (s : State) : State := { s with errRsvd := true }.refuse .reservedRequest

/-! ## Construction and the device reset -/

/-- Construction (R191): the state of R29, or `BAD_CONFIGURATION` (R193). -/
def construct (p : ConstructionParams) : Except ReasonCode State :=
  if p.dataPins.length = dataPinCount p.busWidth then
    .ok
      { cfg :=
          { busw := p.busWidth, rowsRaw := p.rowCount, rows := normaliseRows p.rowCount, cols := p.columns,
            font := p.font, rwWired := p.rwPin.isSome, pins := assignPins p,
            tSettle := p.tSettle, tInit1 := p.tInit1, tInit23 := p.tInit23 }
        mirror := .unwritten
        latches := .undriven
        seq := .idle
        lc := .preInit
        violPreinit := false
        violStale := false
        errRsvd := false
        nph := .unknown
        mirrorStale := false
        devResetSeen := false
        outcome := none
        refusedRun := false
        out := []
        modes := (wiredRoles p.busWidth p.rwPin.isSome).map .mode
        port := []
        call := none
        env := [] }
  else .error .badConfiguration

/-- The block constructed again in a running system (R190, R199): no state of the block survives.

DESIGN CHOICE, log entry 13: what is not the block's stays, namely the device's `NPH` and `MIRROR_STALE`, the host's
words at the port and at the encoder level, the environment, the `Pin` and `Sleep` events already emitted, and the run's
refusal mark (R176 marks the run, not the instance).  `outcome` and the watch for a device reset belong to a request of
the earlier instance and go with it.  DESIGN CHOICE, log entry 16: `modes` holds the `Mode` events of the instance that
exists now, so those of the earlier instance are no longer held, and the new ones have no place relative to `out`. -/
def State.reconstruct (p : ConstructionParams) (s : State) : Except ReasonCode State :=
  match construct p with
  | .error code => .error code
  | .ok t =>
    .ok { t with
        nph := s.nph, mirrorStale := s.mirrorStale, refusedRun := s.refusedRun, out := s.out, port := s.port,
        call := s.call, env := s.env }

/-- `DEV_RESET` (R184): invisible to the block; the mirror is stale and the nibble phase unknown. -/
def State.devReset (s : State) : State := { s with nph := .unknown, mirrorStale := true, devResetSeen := true }

end Sys2Proof.Machine
end

