-- ==== Sys2Proof/Machine/Encoder.lean ====
section
/-!
DEFINITION. The command encoder (`spec/41_command_encoder.md` R100 to R109) and the raw nibbles of the initialization
(`spec/42_init_sequence.md` R121, R122), as operations on the state, and the meanings of the rows of the opcode table
that stand below the request level.  Each is performed as part of the operation in progress, or by itself when the
sequencer is idle; none checks or sets a lifecycle flag, since none is a request (R100; log entry 6).
-/

namespace Sys2Proof.Machine

/-! ## Encoder operations -/

/-- `transferByte(rs, 0, b)`: `rw` is 0 on every transfer (R41, R100). -/
def State.sendByte (rs : Bool) (b : Byte) (s : State) : State := s.issue (transferByte s.cfg rs false b)

/-- `clearDisplay()` (R101). -/
def State.clearDisplay (s : State) : State := s.sendByte false clearByte

/-- `returnHome()` (R102). -/
def State.returnHome (s : State) : State := s.sendByte false homeByteValue

/-- `setEntryMode(increment, shift)` (R103). -/
def State.setEntryMode (increment shift : Bool) (s : State) : State :=
  (s.setMirror (s.mirror.setEntry increment shift)).sendByte false (entryByte increment shift)

/-- `setDisplayControl(d, c, b)` (R104). -/
def State.setDisplayControl (d c b : Bool) (s : State) : State :=
  (s.setMirror (s.mirror.setDisplay d c b)).sendByte false (dctrlByte d c b)

/-- `cursorDisplayShift(sc, rl)` (R105). -/
def State.cursorDisplayShift (sc rl : Bool) (s : State) : State := s.sendByte false (shiftByte sc rl)

/-- `functionSet(busWidth, rowMode, font)`: the byte with the three bits given (R106). -/
def State.sendFunctionSet (dl n f : Bool) (s : State) : State := s.sendByte false (fsetByte dl n f)

/-- `functionSet()`: the three bits come from the configuration (R106). -/
def State.functionSet (s : State) : State :=
  s.sendFunctionSet (dlBit s.cfg.busw) (nBit s.cfg.rows) (fBit s.cfg.font)

/-- `setDDRAMAddress(address)` (R107). -/
def State.setDDRAMAddress (address : BitVec 7) (s : State) : State := s.sendByte false (sddraByte address)

/-- `writeCharacter(kind, code)` (R108). -/
def State.writeCharacter (kind : CharKind) (code : Byte) (s : State) : State :=
  if kindSends kind then s.sendByte true code else s

/-- `writeString(chars)` (R109): every character, first to last, once. -/
def State.writeString : List StrChar → State → State
  | [], s => s
  | c :: rest, s => State.writeString rest (s.writeCharacter c.kind c.code)

/-! ## Raw nibbles -/

/-- The delay after a raw nibble `0b0011`: `T_INIT1` after the first of an operation, `min(T_INIT23, T_SETTLE)` after
a later one (R120, R121; log entry 8). -/
def State.wakeDelay (s : State) : Nat :=
  match s.seq with
  | .idle => s.cfg.tInit1
  | .busy _ _ => min s.cfg.tInit23 s.cfg.tSettle

/-- One raw nibble of step 1 (R121); in 8-bit mode the step is skipped and nothing is sent. -/
def State.sendWake (s : State) : State :=
  match s.cfg.busw with
  | .fourBit => s.issue (rawTransfer4 s.cfg wakeNibble s.wakeDelay .none)
  | .eightBit => s

/-- The raw nibble of step 2 (R122); in 8-bit mode the step is skipped and nothing is sent. -/
def State.sendSet4 (s : State) : State :=
  match s.cfg.busw with
  | .fourBit => s.issue (rawTransfer4 s.cfg set4Nibble s.cfg.tSettle .framed)
  | .eightBit => s

/-! ## The rows below the request level -/

/-- `STRW`: one character of a string (R71, R109). -/
def execStrw (kind : CharKind) (code : Byte) (s : State) : Result := .next (s.writeCharacter kind code)

/-- `CLEAR` (R101). -/
def execClear (s : State) : Result := .next s.clearDisplay

/-- `HOME_BYTE` (R102). -/
def execHomeByte (s : State) : Result := .next s.returnHome

/-- `ENTRY` (R103). -/
def execEntry (id shift : Bool) (s : State) : Result := .next (s.setEntryMode id shift)

/-- `DCTRL` (R104). -/
def execDctrl (d c b : Bool) (s : State) : Result := .next (s.setDisplayControl d c b)

/-- `SHIFT` (R105). -/
def execShift (sc rl : Bool) (s : State) : Result := .next (s.cursorDisplayShift sc rl)

/-- `FSET` (R106; log entry 9). -/
def execFset (dl n f : Bool) (s : State) : Result := .next (s.sendFunctionSet dl n f)

/-- `SDDRA` (R107). -/
def execSddra (address : BitVec 7) (s : State) : Result := .next (s.setDDRAMAddress address)

/-- `DATA` (R108, R64). -/
def execData (code : Byte) (s : State) : Result := .next (s.sendByte true code)

/-- `WAKE` (R121). -/
def execWake (s : State) : Result := .next s.sendWake

/-- `SET4` (R122). -/
def execSet4 (s : State) : Result := .next s.sendSet4

end Sys2Proof.Machine
end

