-- ==== Sys2Proof/Machine/Cursor.lean ====
section
/-!
DEFINITION. The requests that place the cursor and that shift the cursor or the display
(`spec/43_addressing.md` R134, `spec/44_public_ops.md` R152 to R156).
-/

namespace Sys2Proof.Machine

/-- `setCursor(row, column)` (R134): refused outside the address calculator's domain (R133). -/
def State.setCursor (row column : Nat) (s : State) : Except ReasonCode State :=
  match computeDDRAMAddress s.cfg.rows row column with
  | none => .error .outOfDomain
  | some address => .ok (s.setDDRAMAddress (BitVec.ofNat 7 address))

/-- `SCUR` (R134). -/
def execScur (row column : Nat) (s : State) : Result := s.accept State.noteLifecycle (State.setCursor row column)

/-- The inter-step delay: one `Sleep(delay)` when `delay > 0`, nothing when it is 0 (R152). -/
def State.interStepDelay (delay : Nat) (s : State) : State :=
  if 0 < delay then s.issue [plain (.sleep delay)] else s

/-- `shiftRepeat(sc, rl, count, delay)` (R152): a delay follows every step, the last included. -/
def State.shiftRepeat (sc rl : Bool) : Nat → Nat → State → State
  | 0, _, s => s
  | count + 1, delay, s => State.shiftRepeat sc rl count delay ((s.cursorDisplayShift sc rl).interStepDelay delay)

/-- `SCRL` (R153): the display, to the left. -/
def execScrl (count : Nat) (delay : Nat) (s : State) : Result :=
  s.accept State.noteLifecycle fun s => .ok (s.shiftRepeat true false count delay)

/-- `SCRR` (R154): the display, to the right. -/
def execScrr (count : Nat) (delay : Nat) (s : State) : Result :=
  s.accept State.noteLifecycle fun s => .ok (s.shiftRepeat true true count delay)

/-- `CURL` (R155): the cursor, to the left. -/
def execCurl (count : Nat) (delay : Nat) (s : State) : Result :=
  s.accept State.noteLifecycle fun s => .ok (s.shiftRepeat false false count delay)

/-- `CURR` (R156): the cursor, to the right. -/
def execCurr (count : Nat) (delay : Nat) (s : State) : Result :=
  s.accept State.noteLifecycle fun s => .ok (s.shiftRepeat false true count delay)

end Sys2Proof.Machine
end

