-- ==== Sys2Proof/Machine/Display.lean ====
section
/-!
DEFINITION. The requests that clear the display, set its modes, and change one display flag
(`spec/41_command_encoder.md` R101 to R104, `spec/44_public_ops.md` R149 to R151).
-/

namespace Sys2Proof.Machine

/-- `CLR` (R101). -/
def execClr (s : State) : Result := s.accept State.noteLifecycle fun s => .ok s.clearDisplay

/-- `HOME` (R102). -/
def execHome (s : State) : Result := s.accept State.noteLifecycle fun s => .ok s.returnHome

/-- `SDSP` (R104). -/
def execSdsp (on cursor blink : Bool) (s : State) : Result :=
  s.accept State.noteLifecycle fun s => .ok (s.setDisplayControl on cursor blink)

/-- `SENT` (R103). -/
def execSent (increment shift : Bool) (s : State) : Result :=
  s.accept State.noteLifecycle fun s => .ok (s.setEntryMode increment shift)

/-- `blink(on)` (R149): reads `M.D`, `M.C`; refused when either holds no value (R20). -/
def State.blink (on : Bool) (s : State) : Except ReasonCode State :=
  match s.mirror.d, s.mirror.c with
  | some d, some c => .ok (s.setDisplayControl d c on)
  | _, _ => .error .mirrorUnwritten

/-- `cursor(on)` (R150): reads `M.D`, `M.B`; refused when either holds no value (R20). -/
def State.cursor (on : Bool) (s : State) : Except ReasonCode State :=
  match s.mirror.d, s.mirror.b with
  | some d, some b => .ok (s.setDisplayControl d on b)
  | _, _ => .error .mirrorUnwritten

/-- `display(on)` (R151): reads `M.C`, `M.B`; refused when either holds no value (R20). -/
def State.display (on : Bool) (s : State) : Except ReasonCode State :=
  match s.mirror.c, s.mirror.b with
  | some c, some b => .ok (s.setDisplayControl on c b)
  | _, _ => .error .mirrorUnwritten

/-- `BLNK` (R149). -/
def execBlnk (on : Bool) (s : State) : Result := s.accept State.noteLifecycle (State.blink on)

/-- `CURS` (R150). -/
def execCurs (on : Bool) (s : State) : Result := s.accept State.noteLifecycle (State.cursor on)

/-- `DISP` (R151). -/
def execDisp (on : Bool) (s : State) : Result := s.accept State.noteLifecycle (State.display on)

end Sys2Proof.Machine
end

