-- ==== Sys2Proof/Machine/Init.lean ====
section
/-!
DEFINITION. The request `INIT` (`spec/42_init_sequence.md` R120 to R128).
-/

namespace Sys2Proof.Machine

/-- The six steps of `INIT`, in their fixed order (R120).  Steps 1 and 2 send nothing in 8-bit mode (R121, R122). -/
def State.initSequence (s : State) : State :=
  s.sendWake.sendWake.sendWake.sendSet4
    |>.functionSet
    |>.setEntryMode true false
    |>.clearDisplay
    |>.setDisplayControl true true false

/-- `INIT`: legal in every lifecycle phase, reads no mirror flag, cannot be refused (R120, R128, R178). -/
def execInit (s : State) : Result := s.accept State.beginInit fun s => .ok s.initSequence

end Sys2Proof.Machine
end

