-- ==== Sys2Proof/Machine/Text.lean ====
section
/-!
DEFINITION. The character requests `DCHR` and `DSTR` (`spec/41_command_encoder.md` R108, R109).
-/

namespace Sys2Proof.Machine

/-- `DCHR` (R108): with a kind that is not sent, an accepted request with an empty trace. -/
def execDchr (kind : CharKind) (code : Byte) (s : State) : Result :=
  s.accept State.noteLifecycle fun s => .ok (s.writeCharacter kind code)

/-- `DSTR` (R109). -/
def execDstr (chars : List StrChar) (s : State) : Result :=
  s.accept State.noteLifecycle fun s => .ok (s.writeString chars)

end Sys2Proof.Machine
end

