-- ==== Sys2Proof/Machine/Dispatch.lean ====
section
/-!
DEFINITION. The dispatch: one arm per constructor of `Instr`.
-/

namespace Sys2Proof.Machine

def exec (i : Instr) (s : State) : Host.Outcome State Fault Refusal :=
  match i with
  | .init => Sys2Proof.Machine.execInit s
  | .dchr kind code => Sys2Proof.Machine.execDchr kind code s
  | .dstr chars => Sys2Proof.Machine.execDstr chars s
  | .clr => Sys2Proof.Machine.execClr s
  | .home => Sys2Proof.Machine.execHome s
  | .scur row column => Sys2Proof.Machine.execScur row column s
  | .sdsp on cursor blink => Sys2Proof.Machine.execSdsp on cursor blink s
  | .sent increment shift => Sys2Proof.Machine.execSent increment shift s
  | .blnk on => Sys2Proof.Machine.execBlnk on s
  | .curs on => Sys2Proof.Machine.execCurs on s
  | .disp on => Sys2Proof.Machine.execDisp on s
  | .scrl count delay => Sys2Proof.Machine.execScrl count delay s
  | .scrr count delay => Sys2Proof.Machine.execScrr count delay s
  | .curl count delay => Sys2Proof.Machine.execCurl count delay s
  | .curr count delay => Sys2Proof.Machine.execCurr count delay s
  | .strw kind code => Sys2Proof.Machine.execStrw kind code s
  | .clear => Sys2Proof.Machine.execClear s
  | .homeByte => Sys2Proof.Machine.execHomeByte s
  | .entry id shift => Sys2Proof.Machine.execEntry id shift s
  | .dctrl d c b => Sys2Proof.Machine.execDctrl d c b s
  | .shift sc rl => Sys2Proof.Machine.execShift sc rl s
  | .fset dl n f => Sys2Proof.Machine.execFset dl n f s
  | .sddra address => Sys2Proof.Machine.execSddra address s
  | .data code => Sys2Proof.Machine.execData code s
  | .wake => Sys2Proof.Machine.execWake s
  | .set4 => Sys2Proof.Machine.execSet4 s

end Sys2Proof.Machine
end

