-- ==== Sys2Proof/Machine/Fetch.lean ====
section
/-!
DEFINITION. What an idle sequencer takes next (`spec/30_encoding.md` R67, R70, R74): the encoder-level entry first, if
a word stands there, else the request port.  The block fetches no program (`spec/20_memory.md` R52).
-/

namespace Sys2Proof.Machine

/-- `ready` (R67). -/
def State.ready (s : State) : Bool := decide (s.seq = .idle)

/-- What an idle sequencer finds. -/
inductive Fetched where
  /-- No complete request is presented: the block stays as it is. -/
  | nothing
  /-- A reserved request: the state after it is refused (R70). -/
  | reserved (s : State)
  /-- An instruction, and the state with its words taken. -/
  | instr (i : Instr) (s : State)
  /-- The word at the encoder level is no word of its format. -/
  | noDeviceWord
  deriving DecidableEq, Repr

/-- Takes the next instruction. -/
def State.fetch (s : State) : Fetched :=
  match s.call with
  | some word =>
    match decodeDevice word with
    | some i => .instr i s.clearCall
    | none => .noDeviceWord
  | none =>
    match decodePort s.port with
    | .waiting => .nothing
    | .reserved rest => .reserved (s.setPort rest).refuseReserved
    | .request i rest => .instr i (s.setPort rest)

/-- Presents an instruction's words to an idle sequencer, with a quiet environment, so that it is what the very next
step takes.  Words that stood at the port before stay behind it. -/
def State.present (p : Presented) (s : State) : State :=
  match p with
  | .request words => { s with seq := .idle, env := .quiet :: s.env, call := none, port := words ++ s.port }
  | .device word => { s with seq := .idle, env := .quiet :: s.env, call := some word }

end Sys2Proof.Machine
end

