-- ==== Sys2Proof/Machine/Step.lean ====
section
/-!
DEFINITION. One step of the machine: the environment's action if one is due, else one event of a busy sequencer, else
the next instruction of an idle one (`spec/10_state.md` R23, `spec/40_bus_transfer.md` R95).
-/

namespace Sys2Proof.Machine

/-- The block's own step. -/
def blockStep (s : State) : Host.Outcome State Fault Refusal :=
  match s.seq with
  | .busy events i => .next (s.advance events i)
  | .idle =>
    match s.fetch with
    | .nothing => .next s
    | .reserved t => .next t
    | .instr i t => exec i t
    | .noDeviceWord => .refused .notADeviceWord

/-- One step.  An action of the environment other than quiet takes the step by itself (log entry 12). -/
def step (s : State) : Host.Outcome State Fault Refusal :=
  match s.env with
  | [] => blockStep s
  | .quiet :: rest => blockStep (s.setEnv rest)
  | .devReset :: rest => .next (s.setEnv rest).devReset
  | .construct p :: rest =>
    match (s.setEnv rest).reconstruct p with
    | .ok t => .next t
    | .error _ => .fault .badConfiguration

/-- The state in which the instruction of a number of the opcode table is what the next step takes (log entries 7 and
22). -/
def State.withFetchWord (s : State) (nbits w : Nat) : State := s.present (presentTableWord nbits w)

end Sys2Proof.Machine
end

