-- ==== Sys2Proof/Safety.lean ====
section
/-!
DEFINITION. What counts as a safe run, and the words the statements use: the premise of every claim about the device
(`spec/10_state.md` R25), the events still to come, the device's reading of the bus (`spec/20_memory.md` R42, R44), and
the invariants every step keeps.
-/

namespace Sys2Proof.Machine

/-! ## The premise of a claim about the device -/

/-- No violation, no reserved word, no refusal so far (R25, R176): a claim about the LCD controller takes this as a
premise. -/
def State.clean (s : State) : Bool := !s.violPreinit && !s.violStale && !s.errRsvd && !s.refusedRun

/-! ## Events still to come -/

/-- The part of the trace that has not been emitted yet (R23). -/
def Seq.remaining : Seq → List Beat
  | .idle => []
  | .busy events i => events.drop i

/-- The events the operation in progress has still to emit. -/
def State.pending (s : State) : List Event := s.seq.remaining.map Beat.event

/-- The state once every remaining event has been emitted. -/
def State.settled (s : State) : State := s.seq.remaining.foldl (fun t beat => t.emit beat) s

/-- The sum of the `Sleep` events: the least time a trace blocks (R208). -/
def sleepSum : List Event → Nat
  | [] => 0
  | .sleep d :: rest => d + sleepSum rest
  | .pin _ _ :: rest => sleepSum rest
  | .mode _ :: rest => sleepSum rest

/-- How many enable pulses end in a trace: the writes of `E` low (R90, R91). -/
def pulseCount (events : List Event) : Nat := events.countP fun e => e = .pin .e false

/-! ## The device's side of the bus -/

/-- A level as a bit; an undriven line counts as low, which no claim uses: every transfer drives every line it
reads (log entry 24). -/
def levelBit (level : Option Bool) : BitVec 1 := BitVec.ofBool (level.getD false)

/-- What `D[3..0]` carry. -/
def Latches.nibble (l : Latches) : Nibble :=
  levelBit l.d[3] ++ levelBit l.d[2] ++ levelBit l.d[1] ++ levelBit l.d[0]

/-- What `D[7..0]` carry. -/
def Latches.byte (l : Latches) : Byte :=
  levelBit l.d[7] ++ levelBit l.d[6] ++ levelBit l.d[5] ++ levelBit l.d[4] ++
    (levelBit l.d[3] ++ levelBit l.d[2] ++ levelBit l.d[1] ++ levelBit l.d[0])

/-- A reader of the bus: the lines, half a byte already taken, and the bytes taken so far with their `rs`. -/
structure BusReader where
  lines : Latches
  half : Option Nibble
  bytes : List (Bool × Byte)
  deriving DecidableEq, Repr

/-- A reader that has seen nothing. -/
def BusReader.start : BusReader := { lines := .undriven, half := none, bytes := [] }

/-- The reader at the falling edge of `E`: eight lines are a byte; four lines are half of one, the high half first
(R42, R44). -/
def BusReader.latch (busw : BusWidth) (r : BusReader) : BusReader :=
  match busw with
  | .eightBit => { r with bytes := r.bytes ++ [(r.lines.rs.getD false, r.lines.byte)] }
  | .fourBit =>
    match r.half with
    | none => { r with half := some r.lines.nibble }
    | some high => { r with half := none, bytes := r.bytes ++ [(r.lines.rs.getD false, high ++ r.lines.nibble)] }

/-- The reader at one event. -/
def BusReader.read (busw : BusWidth) (r : BusReader) (e : Event) : BusReader :=
  if e = .pin .e false then BusReader.latch busw { r with lines := r.lines.drive e }
  else { r with lines := r.lines.drive e }

/-- The reader at a trace. -/
def BusReader.readAll (busw : BusWidth) (r : BusReader) (events : List Event) : BusReader :=
  events.foldl (BusReader.read busw) r

/-- The bytes a trace carries, each with its `rs`, to a reader that starts at a byte boundary. -/
def bytesOf (busw : BusWidth) (events : List Event) : List (Bool × Byte) :=
  (BusReader.start.readAll busw events).bytes

/-- The last instruction byte (`rs = 0`) of a pattern. -/
def lastInstruction (mask pattern : Byte) (bytes : List (Bool × Byte)) : Option Byte :=
  ((bytes.filter fun x => !x.1 && decide (x.2 &&& mask = pattern)).getLast?).map Prod.snd

/-! ## Invariants -/

/-- The wired roles of a configuration. -/
def rolesOf (cfg : Cfg) : List Role := wiredRoles cfg.busw cfg.rwWired

/-- An event the block may emit after construction: a wired pin, `RW` only low, or a delay (R41, R192). -/
def allowedEvent (cfg : Cfg) : Event → Prop
  | .mode _ => False
  | .pin role v => role ∈ rolesOf cfg ∧ (role = .rw → v = false)
  | .sleep _ => True

/-- What every step keeps, from every state (not only on runs from reset). -/
structure State.Inv (s : State) : Prop where
  /-- The index is inside the trace (R23). -/
  positionInTrace : ∀ events i, s.seq = .busy events i → i < events.length
  /-- `LC = INITIALISING` only while `INIT` is emitting (R24). -/
  initialisingIsBusy : s.lc = .initialising → s.seq ≠ .idle
  /-- `CFG.ROWS` is the normalised row count (R12). -/
  rowsNormalised : s.cfg.rows = normaliseRows s.cfg.rowsRaw
  /-- `CFG.PINS` names a pin for every wired role and for no other (R15). -/
  pinsOfWiredRoles : s.cfg.pins.map Prod.fst = rolesOf s.cfg
  /-- One `Mode` event was emitted for every wired role (R192). -/
  modesOfWiredRoles : s.modes = (rolesOf s.cfg).map .mode
  /-- Only wired pins will be driven, and `RW` never high (R41). -/
  pendingAllowed : ∀ e ∈ s.pending, allowedEvent s.cfg e
  /-- A role that is not wired is undriven (R22). -/
  unwiredUndriven : ∀ role, role ∉ rolesOf s.cfg → s.latches.level role = none
  /-- `RW` is never high (R41). -/
  readWriteNotHigh : s.latches.rw ≠ some true
  /-- Once the trace is out, `E` is not high (R22, R94). -/
  enableEndsLow : s.settled.latches.e ≠ some true

/-- `NPH` is not known to be low once the trace is out (R26; log entry 4): it is high, or not known, as it is after a
device reset (R184).  Not known is not framed: `State.phaseHigh` says that. -/
def State.framed (s : State) : Prop := s.settled.nph ≠ .low

/-- Byte framing (R26, R44): `NPH` is 0 once the trace is out, so the device waits for a high nibble. -/
def State.phaseHigh (s : State) : Prop := s.settled.nph = .high

/-- The mirror against what is sent (R19): on a bus read from the start of the trace, bytes are complete once the trace
is out, and the last display-control byte and the last entry-mode byte carry the mirror's flags.  (The four raw
nibbles of `INIT` pair up to 0x33 and 0x32, which are neither.) -/
structure State.mirrorAgrees (s : State) : Prop where
  bytesComplete : (BusReader.start.readAll s.cfg.busw (s.out ++ s.pending)).half = none
  displayControl : ∀ b, s.mirror.dcr = some b →
    lastInstruction 0xF8#8 0x08#8 (bytesOf s.cfg.busw (s.out ++ s.pending)) = some b
  entryMode : ∀ b, s.mirror.emr = some b →
    lastInstruction 0xFC#8 0x04#8 (bytesOf s.cfg.busw (s.out ++ s.pending)) = some b

/-- The environment does not construct the block again in the next step. -/
def State.noConstruct (s : State) : Prop := ∀ p, s.env.head? ≠ some (.construct p)

/-- The device is not reset in the next step. -/
def State.noDevReset (s : State) : Prop := s.env.head? ≠ some .devReset

/-- The next step, if it is no construction, accepts `INIT`. -/
def State.acceptsInit (s : State) : Prop :=
  s.noDevReset ∧ s.seq = .idle ∧ s.call = none ∧ ∃ rest, decodePort s.port = .request .init rest

/-- The next step, if it is no construction, ends an `INIT` that no device reset has disturbed since it was accepted: it
emits the last event (a position outside the trace ends it too, log entry 21). -/
def State.endsUndisturbedInit (s : State) : Prop :=
  s.noDevReset ∧ s.lc = .initialising ∧ s.devResetSeen = false ∧
    ∃ events i, s.seq = .busy events i ∧ events.length ≤ i + 1

/-- No raw nibble stands at the encoder level. -/
def State.noRawCall (s : State) : Prop := ∀ n, s.call ≠ some (.raw4 n)

/-! ## Numbers and tables the statements compare with -/

/-- The masks and matches of R69's table, row by row from `INIT` to `CURR`. -/
def requestPatterns : List (Word × Word) :=
  [(0xFFFFFFFF, 0x00000000), (0xFFFFFC00, 0x10000000), (0xF000FFFF, 0x20000000), (0xFFFFFFFF, 0x30000000),
   (0xFFFFFFFF, 0x40000000), (0xF0000000, 0x50000000), (0xFFFFFFF8, 0x60000000), (0xFFFFFFFC, 0x70000000),
   (0xFFFFFFFE, 0x80000000), (0xFFFFFFFE, 0x90000000), (0xFFFFFFFE, 0xA0000000), (0xF0000000, 0xB0000000),
   (0xF0000000, 0xC0000000), (0xF0000000, 0xD0000000), (0xF0000000, 0xE0000000)]

/-- The masks and matches of R61's table, row by row from `CLEAR` to `SDDRA`. -/
def instructionPatterns : List (Byte × Byte) :=
  [(0xFF, 0x01), (0xFF, 0x02), (0xFC, 0x04), (0xF8, 0x08), (0xF3, 0x10), (0xE3, 0x20), (0x80, 0x80)]

/-- A Boolean operand as a number. -/
def bit (b : Bool) : Nat := if b then 1 else 0

/-- `offset(row)` of R132 for rows 1 to 4. -/
def offsetOfRow (row : Nat) : Nat :=
  if row = 1 then 0 else if row = 2 then 0x40 else if row = 3 then 20 else 0x40 + 20

/-- `maxcol` of R131. -/
def columnLimit (rows : Rows) : Nat :=
  match rows with
  | .one => 80
  | .two => 40
  | .four => 20

/-- One step of a shift request as R152 gives it: the byte, then `Sleep(delay)` when the delay is above 0. -/
def shiftStep (cfg : Cfg) (byte : Byte) (delay : Nat) : List Beat :=
  transferByte cfg false false byte ++ (if delay = 0 then [] else [⟨.sleep delay, .none⟩])

/-- The function-set byte by configuration (R63's table; D16). -/
def functionSetByte (cfg : Cfg) : Byte :=
  BitVec.ofNat 8 (0x20 + (if cfg.busw = .eightBit then 0x10 else 0) + (if cfg.rows = .one then 0 else 0x08) +
    (if cfg.font = .f5x10 then 0x04 else 0))

/-- A raw nibble's events: a `transfer4` with `rs` and `rw` 0 (R121, R122; D13). -/
def rawNibbleEvents (cfg : Cfg) (n : Nibble) (d : Nat) : List Event := (transfer4 cfg false false n d).map Beat.event

/-! ## Refusals and blocking times -/

/-- The requests the spec refuses when they are accepted, with the code (R172, R133, R20). -/
def refusalOf (s : State) : Instr → Option ReasonCode
  | .scur row column => if row = 0 ∨ rowCount s.cfg.rows < row ∨ column = 0 then some .outOfDomain else none
  | .blnk _ => if s.mirror.d = none ∨ s.mirror.c = none then some .mirrorUnwritten else none
  | .curs _ => if s.mirror.d = none ∨ s.mirror.b = none then some .mirrorUnwritten else none
  | .disp _ => if s.mirror.c = none ∨ s.mirror.b = none then some .mirrorUnwritten else none
  | .init | .dchr _ _ | .dstr _ | .clr | .home | .sdsp _ _ _ | .sent _ _ | .scrl _ _ | .scrr _ _ | .curl _ _
  | .curr _ _ | .strw _ _ | .clear | .homeByte | .entry _ _ | .dctrl _ _ _ | .shift _ _ | .fset _ _ _ | .sddra _
  | .data _ | .wake | .set4 => none

/-- What one byte costs: two settle delays in 4-bit mode, one in 8-bit mode (R92). -/
def byteTime (cfg : Cfg) : Nat := if cfg.busw = .fourBit then 2 * cfg.tSettle else cfg.tSettle

/-- Whether a character operand is one that is sent (R108). -/
def sendable (kind : CharKind) : Bool := decide (kind = .code ∨ kind = .char)

/-- The least blocking time of a request that is performed, row by row of R208's table, with the durations of the
configuration in place of the default ones.  The rows below the request level are no rows of that table. -/
def blockingTime (cfg : Cfg) : Instr → Option Nat
  | .init =>
    some ((if cfg.busw = .fourBit then cfg.tInit1 + 2 * min cfg.tInit23 cfg.tSettle + cfg.tSettle else 0) +
      4 * byteTime cfg)
  | .dchr kind _ => some (if sendable kind then byteTime cfg else 0)
  | .dstr chars => some ((chars.countP fun c => sendable c.kind) * byteTime cfg)
  | .clr | .home | .scur _ _ | .sdsp _ _ _ | .sent _ _ | .blnk _ | .curs _ | .disp _ => some (byteTime cfg)
  | .scrl count delay | .scrr count delay | .curl count delay | .curr count delay =>
    some (count * (byteTime cfg + delay))
  | .strw _ _ | .clear | .homeByte | .entry _ _ | .dctrl _ _ _ | .shift _ _ | .fset _ _ _ | .sddra _ | .data _ | .wake
  | .set4 => none

/-! ## Which instructions are requests -/

/-- The fifteen requests (R68). -/
def isRequest : Instr → Bool
  | .init | .dchr _ _ | .dstr _ | .clr | .home | .scur _ _ | .sdsp _ _ _ | .sent _ _ | .blnk _ | .curs _ | .disp _
  | .scrl _ _ | .scrr _ _ | .curl _ _ | .curr _ _ => true
  | .strw _ _ | .clear | .homeByte | .entry _ _ | .dctrl _ _ _ | .shift _ _ | .fset _ _ _ | .sddra _ | .data _ | .wake
  | .set4 => false

end Sys2Proof.Machine
end

