-- ==== Sys2Proof/Certificates/Slice0/Obligations.lean ====
section
/-!
DEFINITION. The statements.  Each docstring names the rule it follows; where a clause rests on a decision the spec
marks as its own, or on a choice of the model, it names that decision or the log entry.
-/

open Sys2Proof Sys2Proof.Machine

/-! ## Encoding -/

/-- Every well-formed instruction of every row is read back from its encoding (R68, R69, R71, R61, R64, R65; the
request words are the spec's own, D3). -/
def Obligations.DecodeOfEncode : Prop :=
  ∀ i : Instr, i.wellFormed = true → decode (encode i) = some i

/-- A request's length is told by its first word: whatever words follow it at the port, it is read whole and they are
left (R71, R74; D7). -/
def Obligations.RequestReadFromStream : Prop :=
  ∀ (i : Instr) (words rest : List Word), i.wellFormed = true → encode i = .request words →
    decodePort (words ++ rest) = .request i rest

/-- A first word is reserved exactly when it fits no row of R69's table (R70, R74; D8). -/
def Obligations.ReservedExactlyOffTheTable : Prop :=
  ∀ w : Word, decodeHead w = .reserved ↔ ∀ row ∈ requestPatterns, w &&& row.1 ≠ row.2

/-- Words of the spec's decoding table (95_test_vectors.md section 2.5) and device bytes of R61's table. -/
def Obligations.SpecWordsDecode : Prop :=
  decodePort [0x00000000] = .request .init [] ∧
  decodePort [0x00000001] = .reserved [] ∧
  decodePort [0x10000141] = .request (.dchr .char 0x41) [] ∧
  decodePort [0x20020000, 0x00000141, 0x00000142] = .request (.dstr [⟨.char, 0x41⟩, ⟨.char, 0x42⟩]) [] ∧
  decodePort [0x20010000, 0x00000400] = .reserved [] ∧
  decodePort [0x500103E7] = .request (.scur 1 999) [] ∧
  decodePort [0x60000005] = .request (.sdsp true false true) [] ∧
  decodePort [0xBFFFFFFF] = .request (.scrl 4095 65535) [] ∧
  decodePort [0xF0000000] = .reserved [] ∧
  decodeDevice (.ir8 0b00001101) = some (.dctrl true false true) ∧
  decodeDevice (.ir8 0b00011000) = some (.shift true false) ∧
  decodeDevice (.ir8 0b11000000) = some (.sddra 0x40) ∧
  decodeDevice (.dr8 0x41) = some (.data 0x41) ∧
  decodeDevice (.raw4 0b0011) = some .wake ∧
  decodeDevice (.strw 0x00000069) = some (.strw .code 0x69)

/-- The seven instruction byte patterns are disjoint, and a byte is read exactly when it fits one (R61, R66). -/
def Obligations.InstructionBytesDisjoint : Prop :=
  ∀ b : Byte,
    (instructionPatterns.filter fun row => decide (b &&& row.1 = row.2)).length =
      if (decodeIr8 b).isSome then 1 else 0

/-! ## Transfers -/

/-- The events of `transfer4` and `transfer8`, one by one, and how many there are (R90, R91, R42; `RS` before `RW` and
every line written on every transfer is D11). -/
def Obligations.TransferEvents : Prop :=
  ∀ (cfg : Cfg) (rs rw : Bool) (n : Nibble) (b : Byte) (d : Nat),
    (transfer4 cfg rs rw n d).map Beat.event =
      [.pin .rs rs] ++ (if cfg.rwWired then [.pin .rw rw] else []) ++
      [.pin .e true, .pin (.d 3) (n.getLsbD 3), .pin (.d 2) (n.getLsbD 2), .pin (.d 1) (n.getLsbD 1),
       .pin (.d 0) (n.getLsbD 0), .pin .e false, .sleep d] ∧
    (transfer8 cfg rs rw b d).map Beat.event =
      [.pin .rs rs] ++ (if cfg.rwWired then [.pin .rw rw] else []) ++
      [.pin .e true, .pin (.d 7) (b.getLsbD 7), .pin (.d 6) (b.getLsbD 6), .pin (.d 5) (b.getLsbD 5),
       .pin (.d 4) (b.getLsbD 4), .pin (.d 3) (b.getLsbD 3), .pin (.d 2) (b.getLsbD 2), .pin (.d 1) (b.getLsbD 1),
       .pin (.d 0) (b.getLsbD 0), .pin .e false, .sleep d] ∧
    (transfer4 cfg rs rw n d).length = (if cfg.rwWired then 9 else 8) ∧
    (transfer8 cfg rs rw b d).length = (if cfg.rwWired then 13 else 12)

/-- `transferByte` (R92): one 8-bit transfer, or the high nibble and then the low nibble, each with the full settle
delay and the same `rs` and `rw`; in 4-bit mode `NPH` goes 0, 1, 0; a byte costs at least `2 * T_SETTLE` in 4-bit mode
and `T_SETTLE` in 8-bit mode. -/
def Obligations.ByteSplitsHighNibbleFirst : Prop :=
  ∀ (s : State) (rs rw : Bool) (b : Byte),
    (s.cfg.busw = .eightBit →
      transferByte s.cfg rs rw b = transfer8 s.cfg rs rw b s.cfg.tSettle ∧
      sleepSum ((transferByte s.cfg rs rw b).map Beat.event) = s.cfg.tSettle) ∧
    (s.cfg.busw = .fourBit →
      transferByte s.cfg rs rw b =
        transfer4 s.cfg rs rw (b.extractLsb' 4 4) s.cfg.tSettle ++
        transfer4 s.cfg rs rw (b.extractLsb' 0 4) s.cfg.tSettle ∧
      sleepSum ((transferByte s.cfg rs rw b).map Beat.event) = 2 * s.cfg.tSettle ∧
      (s.nph = .high →
        ((transfer4 s.cfg rs rw (b.extractLsb' 4 4) s.cfg.tSettle).foldl (fun t beat => t.emit beat) s).nph = .low ∧
        ((transferByte s.cfg rs rw b).foldl (fun t beat => t.emit beat) s).nph = .high))

/-- At the falling edges of `E` the lines carry the operands of the transfer (R94, R42): a reader of the bus at a byte
boundary takes exactly the byte and the register select that were sent, and is at a byte boundary again, with `E` low
(that the device reads at the falling edge is K5, general knowledge). -/
def Obligations.DeviceReadsTheByteSent : Prop :=
  ∀ (cfg : Cfg) (rs : Bool) (b : Byte) (r : BusReader), r.half = none →
    let after := r.readAll cfg.busw ((transferByte cfg rs false b).map Beat.event)
    after.bytes = r.bytes ++ [(rs, b)] ∧ after.half = none ∧ after.lines.e = some false ∧ after.lines.rs = some rs

/-! ## The sequencer -/

/-- One step of a busy sequencer emits `events[i]` and moves on; `IDLE` after the last event, and then the end of
`INIT` (R23, R95, R24; D2, D24). -/
def Obligations.BusyStepEmitsOneEvent : Prop :=
  ∀ (s : State) (events : List Beat) (i : Nat) (beat : Beat),
    s.env = [] → s.seq = .busy events i → events[i]? = some beat →
    (i + 1 < events.length → step s = .next ((s.emit beat).setSeq (.busy events (i + 1)))) ∧
    (i + 1 = events.length → s.lc ≠ .initialising → step s = .next ((s.emit beat).setSeq .idle)) ∧
    (i + 1 = events.length → s.lc = .initialising →
      step s = .next { (s.emit beat).setSeq .idle with lc := .ready, mirrorStale := s.mirrorStale && s.devResetSeen })

/-- Once accepted, an operation emits its whole trace and nothing else: as many steps as events are left bring the
sequencer to `IDLE`, with exactly those events appended to the output, their levels in the latches, and the mirror, the
configuration and the port as they were (R45, R95, R174; D24). -/
def Obligations.BusyRunsToIdle : Prop :=
  ∀ (s : State) (events : List Beat) (i : Nat),
    s.env = [] → s.seq = .busy events i → i < events.length →
    ∃ t, Sys2Proof.core.run (events.length - i) s = .next t ∧
      t.seq = .idle ∧ t.out = s.out ++ (events.drop i).map Beat.event ∧
      t.latches = ((events.drop i).map Beat.event).foldl Latches.drive s.latches ∧
      t.mirror = s.mirror ∧ t.cfg = s.cfg ∧ t.port = s.port ∧ t.call = s.call

/-- While the sequencer is busy no step takes a request or writes anything a request writes (R45, R141; D23).  The
premise leaves out a construction by the environment (R190). -/
def Obligations.BusyStepTakesNoRequest : Prop :=
  ∀ (s t : State), s.seq ≠ .idle → s.noConstruct → step s = .next t →
    t.port = s.port ∧ t.call = s.call ∧ t.cfg = s.cfg ∧ t.mirror = s.mirror ∧ t.outcome = s.outcome ∧
    t.violPreinit = s.violPreinit ∧ t.violStale = s.violStale ∧ t.errRsvd = s.errRsvd ∧
    t.refusedRun = s.refusedRun ∧ t.modes = s.modes

/-- A request that meets a busy sequencer waits: nothing happens (R141, R67; log entry 19).  This says where a request
waits, not where it completes. -/
def Obligations.RequestWaitsWhileBusy : Prop :=
  ∀ (i : Instr) (s : State), isRequest i = true → s.seq ≠ .idle → exec i s = .next s

/-! ## The environment and construction -/

/-- `DEV_RESET` is invisible to the block: it takes a step of its own, between any two events, and changes the device's
ghosts alone (R184, D34; log entry 12). -/
def Obligations.DeviceResetTouchesGhostsOnly : Prop :=
  ∀ (s : State) (rest : List EnvAction), s.env = .devReset :: rest →
    step s = .next { s with env := rest, nph := .unknown, mirrorStale := true, devResetSeen := true }

/-- Construction stores the parameters, the row count normalised, with the pin identifier of every role and the three
durations; emits one `Mode` event per wired role, writes no level and sends nothing; a data pin list of the wrong length
gives no instance (R191, R192, R193, R12, R15, R29; D12, D18, D20, D25, D26).  The model's choices: which end of the list
carries the highest line is an argument (log entry 18), `T_INIT1` and `T_INIT23` are stored (log entry 17), the order of
`modes` is a fixed name for a set (log entry 16), and the model's own fields and `MIRROR_STALE` (log entries 1, 3, 6, 10
and 12). -/
def Obligations.ConstructionResult : Prop :=
  ∀ p : ConstructionParams,
    (p.dataPins.length = (if p.busWidth = .fourBit then 4 else 8) →
      ∃ s, construct p = .ok s ∧
        s.cfg.busw = p.busWidth ∧ s.cfg.font = p.font ∧ s.cfg.cols = p.columns ∧ s.cfg.rowsRaw = p.rowCount ∧
        (s.cfg.rows = .one ↔ p.rowCount = 1) ∧ (s.cfg.rows = .two ↔ p.rowCount = 2) ∧
        s.cfg.rwWired = p.rwPin.isSome ∧ s.cfg.tSettle = p.tSettle ∧ s.cfg.tInit1 = p.tInit1 ∧
        s.cfg.tInit23 = p.tInit23 ∧
        s.cfg.pins.map Prod.fst = rolesOf s.cfg ∧
        s.cfg.pins.lookup .rs = some p.rsPin ∧ s.cfg.pins.lookup .rw = p.rwPin ∧ s.cfg.pins.lookup .e = some p.ePin ∧
        (∀ k : Fin 8, s.cfg.pins.lookup (.d k) =
          if p.dataPins.length ≤ k then none
          else if p.dataPinOrder = .msbFirstList then p.dataPins[p.dataPins.length - 1 - k]?
          else p.dataPins[(k : Nat)]?) ∧
        s.modes = (rolesOf s.cfg).map .mode ∧
        s.mirror = .unwritten ∧ (∀ role, s.latches.level role = none) ∧ s.seq = .idle ∧ s.lc = .preInit ∧
        s.violPreinit = false ∧ s.violStale = false ∧ s.errRsvd = false ∧ s.nph = .unknown ∧ s.out = [] ∧
        s.mirrorStale = false ∧ s.devResetSeen = false ∧ s.outcome = none ∧ s.refusedRun = false ∧
        s.port = [] ∧ s.call = none ∧ s.env = []) ∧
    (p.dataPins.length ≠ (if p.busWidth = .fourBit then 4 else 8) → construct p = .error .badConfiguration)

/-- `State.reset` is the construction with `resetParams` (R29; the parameters are log entry 2). -/
def Obligations.ResetIsConstruction : Prop := construct resetParams = .ok State.reset

/-- The block constructed again while it runs: no state of the block survives; what is not the block's stays, the run's
refusal mark included; with a bad pin list there is no next state (R190, R199, R193).  What stays is the model's choice
(log entries 1, 13 and 16), and so is the fault (log entry 14). -/
def Obligations.ReconstructionForgetsTheBlock : Prop :=
  ∀ (s : State) (p : ConstructionParams) (rest : List EnvAction), s.env = .construct p :: rest →
    (∀ fresh, construct p = .ok fresh →
      step s = .next { fresh with
        nph := s.nph, mirrorStale := s.mirrorStale, refusedRun := s.refusedRun, out := s.out, port := s.port,
        call := s.call, env := rest }) ∧
    (construct p = .error .badConfiguration → step s = .fault .badConfiguration)

/-! ## A step runs the decoded instruction -/

/-- An idle sequencer whose port reads as a well-formed request runs it, with its words taken from the port (R67,
R74). -/
def Obligations.StepRunsPresentedRequest : Prop :=
  ∀ (s : State) (i : Instr) (rest : List Word),
    s.env = [] → s.seq = .idle → s.call = none → decodePort s.port = .request i rest → i.wellFormed = true →
    step s = exec i { s with port := rest }

/-- An idle sequencer with a word at the encoder level runs the instruction the word stands for (log entry 6). -/
def Obligations.StepRunsEncoderWord : Prop :=
  ∀ (s : State) (i : Instr) (word : DeviceWord),
    s.env = [] → s.seq = .idle → s.call = some word → decodeDevice word = some i → i.wellFormed = true →
    step s = exec i { s with call := none }

/-- A quiet action of the environment lets the block make its step (log entry 12). -/
def Obligations.QuietStepIsTheBlocks : Prop :=
  ∀ (s : State) (rest : List EnvAction), s.env = .quiet :: rest → step s = blockStep { s with env := rest }

/-- A reserved request is consumed, emits no event, and changes nothing but the sticky flag `ERR.RSVD` and the model's
marks of a refusal; the lifecycle flags are not evaluated (R70, R141, R175; D8, log entries 1 and 11). -/
def Obligations.ReservedRequestConsumed : Prop :=
  ∀ (s : State) (rest : List Word),
    s.env = [] → s.seq = .idle → s.call = none → decodePort s.port = .reserved rest →
    step s = .next { s with
      port := rest, errRsvd := true, outcome := some (.refused .reservedRequest), refusedRun := true }

/-- Without a complete request at the port an idle block stays as it is: the model's choice, since the spec has no step
there (log entry 21), as is that a string whose words are not all there waits (log entry 10). -/
def Obligations.IdleWithoutRequestStays : Prop :=
  ∀ s : State, s.env = [] → s.seq = .idle → s.call = none → decodePort s.port = .waiting → step s = .next s

/-! ## Accepting a request -/

/-- Every request other than `INIT`, accepted: `VIOL.PREINIT` is set before `INIT`, `VIOL.STALE` while the mirror is
stale, and both also when the request is then refused; they are never cleared; `LC` stays (R141 step 2, R127, R184,
R175, R25; D21, D34).  The outcome: performed, or performed with the codes of the violations, `PRE_INIT_COMMAND` before
`STALE_MIRROR`; refused with its code exactly where R172 says (R172, R176; D31).  That a refused request is a next state
and how it is recorded is the model's choice (log entry 1). -/
def Obligations.LifecycleFlagsOnAcceptance : Prop :=
  ∀ (i : Instr) (s : State), isRequest i = true → i ≠ .init → s.seq = .idle →
    ∃ t, exec i s = .next t ∧
      t.violPreinit = (s.violPreinit || decide (s.lc = .preInit)) ∧
      t.violStale = (s.violStale || s.mirrorStale) ∧ t.lc = s.lc ∧
      (refusalOf s i = none → t.refusedRun = s.refusedRun ∧ t.outcome = some
        (if s.lc = .preInit then
          (if s.mirrorStale then .performedWithViolation [.preInitCommand, .staleMirror]
           else .performedWithViolation [.preInitCommand])
         else if s.mirrorStale then .performedWithViolation [.staleMirror] else .performed)) ∧
      (∀ code, refusalOf s i = some code →
        t.refusedRun = true ∧ t.outcome = some (.refused code) ∧ t.pending = [] ∧ t.mirror = s.mirror)

/-! ## Clear, home, entry mode, display control -/

/-- `CLR` sends 0x01 and `HOME` sends 0x02, with `rs` 0, and write no mirror flag (R101, R102; `rw` 0 is D10, the
lifecycle flags are R141). -/
def Obligations.ClearAndHomeResult : Prop :=
  ∀ s : State, s.seq = .idle →
    exec .clr s = .next (s.noteLifecycle.setSeq (.busy (transferByte s.cfg false false 0x01) 0)) ∧
    exec .home s = .next (s.noteLifecycle.setSeq (.busy (transferByte s.cfg false false 0x02) 0))

/-- `SENT` (R103): its word, its byte for every operand, the transfer, and the two flags it writes; the display flags
are unchanged. -/
def Obligations.EntryModeResult : Prop :=
  ∀ (increment shift : Bool),
    (∀ rest, decodePort (BitVec.ofNat 32 (0x70000000 + 2 * bit increment + bit shift) :: rest) =
      .request (.sent increment shift) rest) ∧
    (∀ s : State, s.seq = .idle →
      ∃ t, exec (.sent increment shift) s = .next t ∧
        t.pending =
          (transferByte s.cfg false false (BitVec.ofNat 8 (0x04 + 2 * bit increment + bit shift))).map Beat.event ∧
        t.mirror.id = some increment ∧ t.mirror.s = some shift ∧
        t.mirror.d = s.mirror.d ∧ t.mirror.c = s.mirror.c ∧ t.mirror.b = s.mirror.b)

/-- `SDSP` (R104): its word, its byte for every operand, the transfer, and the three flags it writes; the entry-mode
flags are unchanged. -/
def Obligations.DisplayControlResult : Prop :=
  ∀ (on cursor blink : Bool),
    (∀ rest, decodePort (BitVec.ofNat 32 (0x60000000 + 4 * bit on + 2 * bit cursor + bit blink) :: rest) =
      .request (.sdsp on cursor blink) rest) ∧
    (∀ s : State, s.seq = .idle →
      ∃ t, exec (.sdsp on cursor blink) s = .next t ∧
        t.pending =
          (transferByte s.cfg false false
            (BitVec.ofNat 8 (0x08 + 4 * bit on + 2 * bit cursor + bit blink))).map Beat.event ∧
        t.mirror.d = some on ∧ t.mirror.c = some cursor ∧ t.mirror.b = some blink ∧
        t.mirror.id = s.mirror.id ∧ t.mirror.s = s.mirror.s)

/-- The partial setters resend the two other flags from the mirror: the byte, the mirror, the transfer (R149, R150,
R151; the lifecycle flags are R141). -/
def Obligations.PartialSettersKeepTheOthers : Prop :=
  ∀ (s : State) (d c b on : Bool), s.seq = .idle →
    (s.mirror.d = some d → s.mirror.c = some c →
      exec (.blnk on) s = .next { s.noteLifecycle with
        mirror := { s.mirror with d := some d, c := some c, b := some on },
        seq := .busy (transferByte s.cfg false false (BitVec.ofNat 8 (0x08 + 4 * bit d + 2 * bit c + bit on))) 0 }) ∧
    (s.mirror.d = some d → s.mirror.b = some b →
      exec (.curs on) s = .next { s.noteLifecycle with
        mirror := { s.mirror with d := some d, c := some on, b := some b },
        seq := .busy (transferByte s.cfg false false (BitVec.ofNat 8 (0x08 + 4 * bit d + 2 * bit on + bit b))) 0 }) ∧
    (s.mirror.c = some c → s.mirror.b = some b →
      exec (.disp on) s = .next { s.noteLifecycle with
        mirror := { s.mirror with d := some on, c := some c, b := some b },
        seq := .busy (transferByte s.cfg false false (BitVec.ofNat 8 (0x08 + 4 * bit on + 2 * bit c + bit b))) 0 })

/-- A partial setter that needs a mirror flag holding no value is refused with `MIRROR_UNWRITTEN`: no event, the
lifecycle flags set, nothing else (R20, R141, R175; D20, D33, log entry 1). -/
def Obligations.PartialSettersRefusedUnwritten : Prop :=
  ∀ (s : State) (on : Bool), s.seq = .idle →
    ((s.mirror.d = none ∨ s.mirror.c = none) →
      exec (.blnk on) s = .next (s.noteLifecycle.refuse .mirrorUnwritten)) ∧
    ((s.mirror.d = none ∨ s.mirror.b = none) →
      exec (.curs on) s = .next (s.noteLifecycle.refuse .mirrorUnwritten)) ∧
    ((s.mirror.c = none ∨ s.mirror.b = none) →
      exec (.disp on) s = .next (s.noteLifecycle.refuse .mirrorUnwritten))

/-! ## Characters and strings -/

/-- `DCHR` sends its code with `rs` 1 when the kind is a code or a character, and is an accepted no-op otherwise
(R108; D6). -/
def Obligations.CharacterResult : Prop :=
  ∀ (s : State) (code : Byte) (low : Bool), s.seq = .idle →
    exec (.dchr .code code) s = .next (s.noteLifecycle.setSeq (.busy (transferByte s.cfg true false code) 0)) ∧
    exec (.dchr .char code) s = .next (s.noteLifecycle.setSeq (.busy (transferByte s.cfg true false code) 0)) ∧
    exec (.dchr (.other low) code) s = .next s.noteLifecycle

/-- `DSTR` sends every sendable character once, in order, each as one `rs` 1 byte, and nothing else; with none to send
it is an accepted no-op (R109, R73). -/
def Obligations.StringSendsCharactersInOrder : Prop :=
  ∀ (s : State) (chars : List StrChar), s.seq = .idle →
    let sendable := chars.filter fun c => decide (c.kind = .code ∨ c.kind = .char)
    let trace := (sendable.map fun c => transferByte s.cfg true false c.code).flatten
    exec (.dstr chars) s =
      .next (s.noteLifecycle.setSeq (if sendable = [] then .idle else .busy trace 0))

/-! ## The address calculator and `SCUR` -/

/-- The column is clamped to the maximum of the row count, 80, 40 or 20, before conversion, and the row offset, 0, 0x40,
20 or 0x40 + 20, is added (R131, R132): for every row of the geometry and every column from 1, whatever `CFG.COLS` is.  A
display constructed with 3 rows uses the 4-row clamp. -/
def Obligations.AddressFormula : Prop :=
  (∀ (rows : Rows) (row column : Nat), 1 ≤ row → row ≤ rowCount rows → 1 ≤ column →
    computeDDRAMAddress rows row column = some ((min column (columnLimit rows) - 1) + offsetOfRow row)) ∧
  (∀ (p : ConstructionParams) (s : State), p.rowCount = 3 → construct p = .ok s → columnLimit s.cfg.rows = 20)

/-- Inside the domain the address is at most 103, does not fall when the column grows, and is constant from the clamp
on; outside the domain there is none (R135, R131, R133; D19). -/
def Obligations.AddressBounds : Prop :=
  ∀ (rows : Rows) (row column : Nat),
    (∀ address, computeDDRAMAddress rows row column = some address →
      address ≤ 103 ∧
      (∀ column' address', column ≤ column' → computeDDRAMAddress rows row column' = some address' →
        address ≤ address') ∧
      (columnLimit rows ≤ column → computeDDRAMAddress rows row (columnLimit rows) = some address)) ∧
    (computeDDRAMAddress rows row column = none ↔ row = 0 ∨ rowCount rows < row ∨ column = 0)

/-- The rows of a geometry do not overlap: two positions inside the clamp with one address are one position (R135,
R47). -/
def Obligations.RowsDoNotOverlap : Prop :=
  ∀ (rows : Rows) (row column row' column' address : Nat),
    column ≤ columnLimit rows → column' ≤ columnLimit rows →
    computeDDRAMAddress rows row column = some address → computeDDRAMAddress rows row' column' = some address →
    row = row' ∧ column = column'

/-- `SCUR` sends `0x80` plus the computed address inside the domain; outside it is refused with `OUT_OF_DOMAIN`: no
event, the lifecycle flags set, nothing else (R134, R133, R48, R141; D19, D33, log entry 1). -/
def Obligations.SetCursorResult : Prop :=
  ∀ (s : State) (row column : Nat), s.seq = .idle →
    (1 ≤ row → row ≤ rowCount s.cfg.rows → 1 ≤ column →
      exec (.scur row column) s = .next (s.noteLifecycle.setSeq (.busy (transferByte s.cfg false false
        (BitVec.ofNat 8 (0x80 + (min column (columnLimit s.cfg.rows) - 1) + offsetOfRow row))) 0))) ∧
    (row = 0 ∨ rowCount s.cfg.rows < row ∨ column = 0 →
      exec (.scur row column) s = .next (s.noteLifecycle.refuse .outOfDomain))

/-! ## Shifts -/

/-- The four shift requests send their byte `count` times, a delay after every step when it is above 0, the last
included; with `count` 0 they are accepted no-ops (R152 to R156; D28, D29). -/
def Obligations.ShiftRequestsRepeat : Prop :=
  ∀ (s : State) (count : Nat) (delay : Nat), s.seq = .idle →
    let after (byte : Byte) : State := s.noteLifecycle.setSeq
      (if count = 0 then .idle else .busy (List.replicate count (shiftStep s.cfg byte delay)).flatten 0)
    exec (.scrl count delay) s = .next (after 0x18) ∧ exec (.scrr count delay) s = .next (after 0x1C) ∧
    exec (.curl count delay) s = .next (after 0x10) ∧ exec (.curr count delay) s = .next (after 0x14)

/-! ## Initialization -/

/-- `INIT` from an idle sequencer in any lifecycle phase: the trace of its six steps, the five mirror flags, and
`LC = INITIALISING`; every other piece of state as it was (R120 to R126, R128; D13, D14, D22, D27, and for the outcome
log entry 1). -/
def Obligations.InitResult : Prop :=
  ∀ s : State, s.seq = .idle →
    ∃ events, exec .init s = .next { s with
        seq := .busy events 0, lc := .initialising, devResetSeen := false, outcome := some .performed,
        mirror := { d := some true, c := some true, b := some false, id := some true, s := some false } } ∧
      events.map Beat.event =
        (if s.cfg.busw = .fourBit then
          rawNibbleEvents s.cfg 0b0011 s.cfg.tInit1 ++
          rawNibbleEvents s.cfg 0b0011 (min s.cfg.tInit23 s.cfg.tSettle) ++
          rawNibbleEvents s.cfg 0b0011 (min s.cfg.tInit23 s.cfg.tSettle) ++
          rawNibbleEvents s.cfg 0b0010 s.cfg.tSettle
         else []) ++
        ([functionSetByte s.cfg, 0x06, 0x01, 0x0E].map fun b =>
          (transferByte s.cfg false false b).map Beat.event).flatten

/-- `INIT` run to its last event with no device reset meanwhile: `LC = READY`, the mirror is the five default values,
`MIRROR_STALE` is cleared, the bytes are framed in 4-bit mode, and the sticky flags are as they were (R120, R20, R24,
R122, R128, R184; D21, D22, D34). -/
def Obligations.InitRunsToReady : Prop :=
  ∀ (s u : State), s.env = [] → s.seq = .idle → exec .init s = .next u →
    ∃ n t, Sys2Proof.core.run n u = .next t ∧ t.seq = .idle ∧ t.lc = .ready ∧
      t.mirror = { d := some true, c := some true, b := some false, id := some true, s := some false } ∧
      t.mirrorStale = false ∧ (s.cfg.busw = .fourBit → t.nph = .high) ∧ t.latches.e = some false ∧
      t.violPreinit = s.violPreinit ∧ t.violStale = s.violStale ∧ t.errRsvd = s.errRsvd ∧ t.out = s.out ++ u.pending

/-- A stale mirror stays stale until the last event of an `INIT` that no device reset has disturbed since it was accepted
(R184, R120, R26; D34).  From every state with `MIRROR_STALE = 1`, busy or idle, a step that is no construction leaves it 1,
the steps of an `INIT` accepted meanwhile included, exactly unless it is that last event; a device reset seen stays seen
until another `INIT` is accepted, so that the `INIT` it fell into does not clear `MIRROR_STALE`. -/
def Obligations.DeviceResetDuringInitStaysStale : Prop :=
  ∀ (s t : State), s.mirrorStale = true → s.noConstruct → step s = .next t →
    (t.mirrorStale = true ↔ ¬ s.endsUndisturbedInit) ∧
    (¬ s.acceptsInit →
      (s.devResetSeen = true → t.devResetSeen = true) ∧
      ((s.lc = .initialising → s.devResetSeen = true) → t.lc = .initialising → t.devResetSeen = true))

/-- `INIT` is its steps: started by the same acceptance, performing the rows `WAKE`, `WAKE`, `WAKE`, `SET4`, `FSET` with
the configuration's bits, `ENTRY 1 0`, `CLEAR`, `DCTRL 1 1 0` one after the other gives the state `INIT` gives, in both
bus widths (R120, R123, R106; log entries 6 and 8). -/
def Obligations.InitIsItsSteps : Prop :=
  ∀ (s : State), s.seq = .idle →
    let perform (r : Result) (i : Instr) : Result :=
      match r with
      | .next t => exec i t
      | .fault f => .fault f
      | .refused f => .refused f
    exec .init s =
      [.wake, .wake, .wake, .set4,
       .fset (decide (s.cfg.busw = .eightBit)) (decide (s.cfg.rows ≠ .one)) (decide (s.cfg.font = .f5x10)),
       .entry true false, .clear, .dctrl true true false].foldl perform (.next s.beginInit)

/-! ## The rows below the request level -/

/-- The rows below the request level that send a byte do so in every state, as the next part of the operation in
progress or by themselves, and write the mirror flags that the byte carries and nothing else (R101 to R108, R64, R71;
log entries 6 and 9). -/
def Obligations.EncoderRowsSendTheirByte : Prop :=
  ∀ (s : State) (x y z : Bool) (address : BitVec 7) (code : Byte),
    let send (rs : Bool) (byte : Byte) : State := s.setSeq (s.seq.append (transferByte s.cfg rs false byte))
    exec .clear s = .next (send false 0x01) ∧
    exec .homeByte s = .next (send false 0x02) ∧
    exec (.entry x y) s = .next { send false (BitVec.ofNat 8 (0x04 + 2 * bit x + bit y)) with
      mirror := { s.mirror with id := some x, s := some y } } ∧
    exec (.dctrl x y z) s = .next { send false (BitVec.ofNat 8 (0x08 + 4 * bit x + 2 * bit y + bit z)) with
      mirror := { s.mirror with d := some x, c := some y, b := some z } } ∧
    exec (.shift x y) s = .next (send false (BitVec.ofNat 8 (0x10 + 8 * bit x + 4 * bit y))) ∧
    exec (.fset x y z) s = .next (send false (BitVec.ofNat 8 (0x20 + 16 * bit x + 8 * bit y + 4 * bit z))) ∧
    exec (.sddra address) s = .next (send false (BitVec.ofNat 8 (0x80 + address.toNat))) ∧
    exec (.data code) s = .next (send true code) ∧
    exec (.strw .code code) s = .next (send true code) ∧
    exec (.strw .char code) s = .next (send true code) ∧
    exec (.strw (.other x) code) s = .next s

/-- The raw nibbles: in 4-bit mode `0b0011` with the long delay when it begins an operation and the short one after
that, and `0b0010` with the settle delay; in 8-bit mode the step is skipped (R121, R122, R65; D13, D14, log entry 8). -/
def Obligations.RawNibbleRows : Prop :=
  ∀ s : State,
    (s.cfg.busw = .eightBit → exec .wake s = .next s ∧ exec .set4 s = .next s) ∧
    (s.cfg.busw = .fourBit →
      ∃ w f, exec .wake s = .next (s.setSeq (s.seq.append w)) ∧ exec .set4 s = .next (s.setSeq (s.seq.append f)) ∧
        w.map Beat.event = rawNibbleEvents s.cfg 0b0011
          (if s.seq = .idle then s.cfg.tInit1 else min s.cfg.tInit23 s.cfg.tSettle) ∧
        f.map Beat.event = rawNibbleEvents s.cfg 0b0010 s.cfg.tSettle)

/-! ## Frames and whole-machine rules -/

/-- The frame of every request other than `INIT`: it writes at most the mirror, `SEQ`, the violation flags and the
model's record of the outcome (R27, R28; log entry 1). -/
def Obligations.RequestFrame : Prop :=
  ∀ (i : Instr) (s t : State), isRequest i = true → i ≠ .init → exec i s = .next t →
    t.cfg = s.cfg ∧ t.latches = s.latches ∧ t.lc = s.lc ∧ t.errRsvd = s.errRsvd ∧ t.nph = s.nph ∧
    t.mirrorStale = s.mirrorStale ∧ t.devResetSeen = s.devResetSeen ∧ t.out = s.out ∧ t.modes = s.modes ∧
    t.port = s.port ∧ t.call = s.call ∧ t.env = s.env

/-- The frame of `INIT`: it writes at most the mirror, `SEQ`, `LC`, the watch for a device reset and the record of the
outcome (R28, R120, R128; log entry 1). -/
def Obligations.InitFrame : Prop :=
  ∀ (s t : State), exec .init s = .next t →
    t.cfg = s.cfg ∧ t.latches = s.latches ∧ t.violPreinit = s.violPreinit ∧ t.violStale = s.violStale ∧
    t.errRsvd = s.errRsvd ∧ t.nph = s.nph ∧ t.mirrorStale = s.mirrorStale ∧ t.refusedRun = s.refusedRun ∧
    t.out = s.out ∧ t.modes = s.modes ∧ t.port = s.port ∧ t.call = s.call ∧ t.env = s.env

/-- The frame of the rows below the request level: they write at most `SEQ` and the mirror, and the mirror only by
`ENTRY` and `DCTRL` (R100, R28; log entry 6). -/
def Obligations.EncoderRowFrame : Prop :=
  ∀ (i : Instr) (s t : State), isRequest i = false → exec i s = .next t →
    t = { s with seq := t.seq, mirror := t.mirror } ∧
    ((∀ x y, i ≠ .entry x y) → (∀ x y z, i ≠ .dctrl x y z) → t.mirror = s.mirror)

/-- Who writes the mirror (R28, R18, R30): only `INIT`, `SDSP`, `SENT`, `BLNK`, `CURS`, `DISP` among the requests;
`SENT` leaves the display flags, the others of the five leave the entry-mode flags; each partial setter leaves the two
flags it resends. -/
def Obligations.MirrorWriters : Prop :=
  ∀ (i : Instr) (s t : State), isRequest i = true → exec i s = .next t →
    (i ≠ .init → (∀ x y z, i ≠ .sdsp x y z) → (∀ x y, i ≠ .sent x y) → (∀ x, i ≠ .blnk x) → (∀ x, i ≠ .curs x) →
      (∀ x, i ≠ .disp x) → t.mirror = s.mirror) ∧
    ((∃ x y, i = .sent x y) → t.mirror.d = s.mirror.d ∧ t.mirror.c = s.mirror.c ∧ t.mirror.b = s.mirror.b) ∧
    ((∃ x y z, i = .sdsp x y z) ∨ (∃ x, i = .blnk x) ∨ (∃ x, i = .curs x) ∨ (∃ x, i = .disp x) →
      t.mirror.id = s.mirror.id ∧ t.mirror.s = s.mirror.s) ∧
    ((∃ x, i = .blnk x) → t.mirror.d = s.mirror.d ∧ t.mirror.c = s.mirror.c) ∧
    ((∃ x, i = .curs x) → t.mirror.d = s.mirror.d ∧ t.mirror.b = s.mirror.b) ∧
    ((∃ x, i = .disp x) → t.mirror.c = s.mirror.c ∧ t.mirror.b = s.mirror.b)

/-- Pin assignment, bus width, geometry, font and `T_SETTLE` never change after construction (R17): no instruction
writes a `CFG` field, and no step does, unless it is a construction. -/
def Obligations.ConfigurationNeverWritten : Prop :=
  (∀ (i : Instr) (s t : State), exec i s = .next t → t.cfg = s.cfg) ∧
  (∀ s t : State, s.noConstruct → step s = .next t → t.cfg = s.cfg)

/-- No instruction stops the machine: every instruction, with every operand, in every state, answers a next state
(R170, R176; what the spec refuses is a next state that says so, log entry 1). -/
def Obligations.NoInstructionStops : Prop :=
  ∀ (i : Instr) (s : State), ∃ t, exec i s = .next t

/-- No step stops while nothing stands at the encoder level and the environment constructs no block: the hardware raises
nothing (R170, R173).  That a refused or reserved request is a next state and that an idle block without a request has one
are the model's choices (log entries 1 and 21). -/
def Obligations.NoStepStops : Prop :=
  ∀ s : State, s.call = none → s.noConstruct → ∃ t, step s = .next t

/-- The three sticky flags are never cleared by a step that is no construction (R25, R128, R190).  The mark of a refused
run (R176) is never cleared by any step, which is the model's choice of what that mark is (log entries 1 and 13). -/
def Obligations.StickyFlagsStay : Prop :=
  ∀ (s t : State), step s = .next t →
    (s.noConstruct →
      (s.violPreinit = true → t.violPreinit = true) ∧ (s.violStale = true → t.violStale = true) ∧
      (s.errRsvd = true → t.errRsvd = true)) ∧
    (s.refusedRun = true → t.refusedRun = true)

/-- What the device is sent by one request other than `INIT` (R66, R106, R179): each byte is character data, or an
instruction byte that is `CLEAR`, `HOME`, `ENTRY`, `DCTRL`, `SHIFT` or `SDDRA` up to 0xE7; never a function-set byte,
and never a byte with no pattern. -/
def Obligations.RequestsSendOnlyTheseBytes : Prop :=
  ∀ (i : Instr) (s t : State), isRequest i = true → i ≠ .init → s.seq = .idle → exec i s = .next t →
    ∀ x ∈ bytesOf s.cfg.busw t.pending,
      x.1 = true ∨ x.2 = 0x01 ∨ x.2 = 0x02 ∨ (0x04 ≤ x.2 ∧ x.2 ≤ 0x0F) ∨
      x.2 = 0x10 ∨ x.2 = 0x14 ∨ x.2 = 0x18 ∨ x.2 = 0x1C ∨ (0x80 ≤ x.2 ∧ x.2 ≤ 0xE7)

/-- In 4-bit mode every request other than `INIT` sends an even number of nibbles, and `INIT` sends twelve; in 8-bit
mode `INIT` sends four bytes (R44, R92, R120). -/
def Obligations.NibblesPairUp : Prop :=
  ∀ (i : Instr) (s t : State), isRequest i = true → s.seq = .idle → exec i s = .next t →
    (s.cfg.busw = .fourBit → i ≠ .init → pulseCount t.pending % 2 = 0) ∧
    (s.cfg.busw = .fourBit → i = .init → pulseCount t.pending = 12) ∧
    (s.cfg.busw = .eightBit → i = .init → pulseCount t.pending = 4)

/-- The least blocking time of every request, as the sum of its `Sleep` events: the rows of R208 (R207, R152), and
nothing for a request that is refused (R172; that it is a next state is log entry 1). -/
def Obligations.BlockingTimes : Prop :=
  ∀ (i : Instr) (s : State) (time : Nat), s.seq = .idle → blockingTime s.cfg i = some time →
    ∃ t, exec i s = .next t ∧ sleepSum t.pending = if refusalOf s i = none then time else 0

/-- What an instruction sends depends on the configuration and the mirror alone, and what a request that reads no mirror
flag sends on the configuration alone (R109, R128, R52, R28; D32). -/
def Obligations.TraceDependsOnConfigurationAndMirror : Prop :=
  ∀ (i : Instr) (s s' t t' : State), s.seq = .idle → s'.seq = .idle → s.cfg = s'.cfg →
    exec i s = .next t → exec i s' = .next t' →
    (s.mirror = s'.mirror → t.seq = t'.seq ∧ t.mirror = t'.mirror) ∧
    ((∀ on, i ≠ .blnk on) → (∀ on, i ≠ .curs on) → (∀ on, i ≠ .disp on) → t.seq = t'.seq)

/-! ## Invariants -/

/-- What holds at reset (R29, R23, R24, R12, R15, R192): the invariant; that `NPH`, which is unknown there, is not known
to be low (log entry 4: unknown is not framed); and that a mirror without values agrees with the empty output.  The model's
choices: the parameters of `State.reset` (log entry 2) and the order of `modes` (log entry 16). -/
def Obligations.InvHoldsAtReset : Prop := State.reset.Inv ∧ State.reset.framed ∧ State.reset.mirrorAgrees

/-- Every step keeps the invariant (R23, R24, R12, R15, R192, R41, R22, R94), whatever the environment does: the
position stays inside the trace, `LC` is `INITIALISING` only while busy, pins and roles agree, only wired pins are
driven, `RW` is never high, and `E` is low once a trace is out.  The model's choices in it: `modes` lists one `Mode` event
per wired role in one fixed order, which R192 leaves open, and a second construction replaces them (log entry 16). -/
def Obligations.StepKeepsInv : Prop :=
  ∀ (s t : State), s.Inv → step s = .next t → t.Inv

/-- `NPH` is never known to be low between operations: once the trace in progress is out it is high or not known,
through raw nibbles and device resets too (R26, R184; the three values of `NPH` and what a raw nibble makes of it are log
entry 4, and that 8-bit pulses leave it is log entry 25).  The premises: the position is inside the trace, and no
construction cuts an operation short (R199). -/
def Obligations.StepKeepsFraming : Prop :=
  ∀ (s t : State), s.Inv → s.noConstruct → s.framed → step s = .next t → t.framed

/-- Byte framing in 4-bit mode (R44, R26): where `NPH` is 0 once the trace in progress is out, every step keeps it so, an
accepted `INIT` included, unless the device is reset (R184), the block is constructed again (R199), or a raw nibble is
performed by itself (log entry 6).  Where in a pulse `NPH` moves is log entry 4. -/
def Obligations.StepKeepsNibblePhase : Prop :=
  ∀ (s t : State), s.cfg.busw = .fourBit → s.Inv → s.noConstruct → s.noDevReset → s.noRawCall → s.phaseHigh →
    step s = .next t → t.phaseHigh

/-- The mirror cannot silently drift (R19): every step keeps it equal to what the last display-control byte and the last
entry-mode byte of the trace carry.  The premises: the position is inside the trace, nothing stands at the encoder
level (log entry 6), and no construction cuts an operation short (R199). -/
def Obligations.StepKeepsMirrorAgreement : Prop :=
  ∀ (s t : State), s.Inv → s.noConstruct → s.call = none → s.mirrorAgrees → step s = .next t → t.mirrorAgrees
end

