-- ==== Sys2Proof/Laws/Decode.lean ====
section
/-!
SUPPORT. The fields and masks of a request word made of its fields, one reading lemma per row of the request table, and
the string words of a `DSTR`.
-/

namespace Sys2Proof

/-! ## Bits of a word made of its fields -/

theorem requestWord_getLsbD (op : BitVec 4) (a : BitVec 12) (b : BitVec 16) (i : Nat) :
    (requestWord op a b).getLsbD i =
      if i < 16 then b.getLsbD i else if i < 28 then a.getLsbD (i - 16) else op.getLsbD (i - 28) := by
  refine (BitVec.getLsbD_append (x := op ++ a) (y := b) (i := i)).trans ?_
  rw [BitVec.getLsbD_append (x := op) (y := a) (i := i - 16)]
  by_cases h : i < 16
  · simp [h]
  · by_cases h' : i < 28
    · simp [h, h', show i - 16 < 12 by omega]
    · simp only [h, h', if_false, show ¬ i - 16 < 12 by omega]
      rw [show i - 16 - 12 = i - 28 by omega]

theorem characterField_getLsbD (k : BitVec 2) (code : Byte) (i : Nat) :
    (0#6 ++ k ++ code).getLsbD i = if i < 8 then code.getLsbD i else k.getLsbD (i - 8) := by
  refine (BitVec.getLsbD_append (x := 0#6 ++ k) (y := code) (i := i)).trans ?_
  rw [BitVec.getLsbD_append (x := 0#6) (y := k) (i := i - 8)]
  by_cases h : i < 8
  · simp [h]
  · by_cases h' : i - 8 < 2
    · simp [h, h']
    · simp only [h, h', if_false, BitVec.getLsbD_zero]
      exact (BitVec.getLsbD_of_ge _ _ (by omega)).symm

theorem strWord_getLsbD (c : StrChar) (i : Nat) :
    (strWord c).getLsbD i = if i < 8 then c.code.getLsbD i else (kindBits c.kind).getLsbD (i - 8) := by
  refine (BitVec.getLsbD_append (x := 0#22 ++ kindBits c.kind) (y := c.code) (i := i)).trans ?_
  rw [BitVec.getLsbD_append (x := 0#22) (y := kindBits c.kind) (i := i - 8)]
  by_cases h : i < 8
  · simp [h]
  · by_cases h' : i - 8 < 2
    · simp [h, h']
    · simp only [h, h', if_false, BitVec.getLsbD_zero]
      exact (BitVec.getLsbD_of_ge _ _ (by omega)).symm

/-! ## Fields and masks of a word made of its fields -/

@[simp] theorem opField_requestWord (op : BitVec 4) (a : BitVec 12) (b : BitVec 16) :
    opField (requestWord op a b) = op := by
  apply BitVec.eq_of_getLsbD_eq
  intro i h
  simp [opField, requestWord_getLsbD, h, show ¬ 28 + i < 16 by omega]

@[simp] theorem aField_requestWord (op : BitVec 4) (a : BitVec 12) (b : BitVec 16) :
    aField (requestWord op a b) = a := by
  apply BitVec.eq_of_getLsbD_eq
  intro i h
  simp [aField, requestWord_getLsbD, h, show 16 + i < 28 by omega]

@[simp] theorem bField_requestWord (op : BitVec 4) (a : BitVec 12) (b : BitVec 16) :
    bField (requestWord op a b) = b := by
  apply BitVec.eq_of_getLsbD_eq
  intro i h
  simp [bField, requestWord_getLsbD, h]

/-- A mask acts on each field by itself. -/
theorem requestWord_and (op op' : BitVec 4) (a a' : BitVec 12) (b b' : BitVec 16) :
    requestWord op a b &&& requestWord op' a' b' = requestWord (op &&& op') (a &&& a') (b &&& b') := by
  apply BitVec.eq_of_getLsbD_eq
  intro i h
  simp only [BitVec.getLsbD_and, requestWord_getLsbD]
  split_ifs <;> rfl

/-- The mask of a row that fixes `op` alone. -/
theorem requestWord_and_op (op : BitVec 4) (a : BitVec 12) (b : BitVec 16) :
    requestWord op a b &&& 0xF0000000#32 = requestWord op 0#12 0#16 := by
  rw [show (0xF0000000#32 : Word) = requestWord 0xF#4 0#12 0#16 from rfl, requestWord_and, BitVec.and_zero,
    BitVec.and_zero]
  exact congrArg (requestWord · _ _) BitVec.and_allOnes

theorem kindOfBits_kindBits (k : CharKind) : kindOfBits (kindBits k) = k := by
  rcases k with _ | _ | _ | _ <;> rfl

theorem kindField_character (op : BitVec 4) (k : BitVec 2) (code : Byte) :
    kindField (requestWord op 0#12 (0#6 ++ k ++ code)) = k := by
  apply BitVec.eq_of_getLsbD_eq
  intro i h
  simp only [kindField, BitVec.getLsbD_extractLsb', requestWord_getLsbD]
  rw [characterField_getLsbD]
  simp [h, show 8 + i < 16 by omega]

theorem codeField_character (op : BitVec 4) (k : BitVec 2) (code : Byte) :
    codeField (requestWord op 0#12 (0#6 ++ k ++ code)) = code := by
  apply BitVec.eq_of_getLsbD_eq
  intro i h
  simp only [codeField, BitVec.getLsbD_extractLsb', requestWord_getLsbD]
  rw [characterField_getLsbD]
  simp [h, show i < 16 by omega]

theorem character_and (k : BitVec 2) (code : Byte) :
    requestWord 0x1#4 0#12 (0#6 ++ k ++ code) &&& 0xFFFFFC00#32 = 0x10000000#32 := by
  rw [show (0xFFFFFC00#32 : Word) = requestWord 0xF#4 0xFFF#12 0xFC00#16 from rfl, requestWord_and]
  have : (0#6 ++ k ++ code) &&& 0xFC00#16 = 0#16 := by
    apply BitVec.eq_of_getLsbD_eq
    intro i h
    rw [BitVec.getLsbD_and, characterField_getLsbD]
    interval_cases i <;> simp
  rw [this]
  rfl

/-! ## One reading per row with operands in the fields -/

theorem decodeHead_dchr (kind : CharKind) (code : Byte) :
    decodeHead (requestWord 0x1#4 0#12 (0#6 ++ kindBits kind ++ code)) = .whole (.dchr kind code) := by
  simp only [decodeHead, opField_requestWord, character_and, kindField_character, codeField_character,
    kindOfBits_kindBits]
  rfl

theorem decodeHead_dstr (a : BitVec 12) : decodeHead (requestWord 0x2#4 a 0#16) = .string a.toNat := by
  have : requestWord 0x2#4 a 0#16 &&& 0xF000FFFF#32 = 0x20000000#32 := by
    rw [show (0xF000FFFF#32 : Word) = requestWord 0xF#4 0#12 0xFFFF#16 from rfl, requestWord_and, BitVec.and_zero]
    rfl
  simp only [decodeHead, opField_requestWord, this, aField_requestWord]
  rfl

theorem decodeHead_scur (a : BitVec 12) (b : BitVec 16) :
    decodeHead (requestWord 0x5#4 a b) = .whole (.scur a.toNat b.toNat) := by
  simp only [decodeHead, opField_requestWord, requestWord_and_op, aField_requestWord, bField_requestWord]
  rfl

theorem decodeHead_scrl (a : BitVec 12) (b : BitVec 16) :
    decodeHead (requestWord 0xB#4 a b) = .whole (.scrl a.toNat b.toNat) := by
  simp only [decodeHead, opField_requestWord, requestWord_and_op, aField_requestWord, bField_requestWord]
  rfl

theorem decodeHead_scrr (a : BitVec 12) (b : BitVec 16) :
    decodeHead (requestWord 0xC#4 a b) = .whole (.scrr a.toNat b.toNat) := by
  simp only [decodeHead, opField_requestWord, requestWord_and_op, aField_requestWord, bField_requestWord]
  rfl

theorem decodeHead_curl (a : BitVec 12) (b : BitVec 16) :
    decodeHead (requestWord 0xD#4 a b) = .whole (.curl a.toNat b.toNat) := by
  simp only [decodeHead, opField_requestWord, requestWord_and_op, aField_requestWord, bField_requestWord]
  rfl

theorem decodeHead_curr (a : BitVec 12) (b : BitVec 16) :
    decodeHead (requestWord 0xE#4 a b) = .whole (.curr a.toNat b.toNat) := by
  simp only [decodeHead, opField_requestWord, requestWord_and_op, aField_requestWord, bField_requestWord]
  rfl

/-! ## String words -/

/-- The fixed bits of a string word (R71). -/
theorem strWord_and (c : StrChar) : strWord c &&& 0xFFFFFC00#32 = 0x00000000#32 := by
  apply BitVec.eq_of_getLsbD_eq
  intro i h
  rw [BitVec.getLsbD_and, strWord_getLsbD]
  interval_cases i <;> simp

/-- A string word made of a character is read back (R71). -/
@[simp] theorem decodeStrw_strWord (c : StrChar) : decodeStrw (strWord c) = some c := by
  have kind : kindField (strWord c) = kindBits c.kind := by
    apply BitVec.eq_of_getLsbD_eq
    intro i h
    simp [kindField, strWord_getLsbD, h]
  have code : codeField (strWord c) = c.code := by
    apply BitVec.eq_of_getLsbD_eq
    intro i h
    simp [codeField, strWord_getLsbD, h]
  simp [decodeStrw, strWord_and, kind, code, kindOfBits_kindBits]

/-- A string is read back from its words (R71). -/
theorem mapM_decodeStrw (chars : List StrChar) : (chars.map strWord).mapM decodeStrw = some chars := by
  induction chars with
  | nil => rfl
  | cons c rest ih => simp [ih]

/-! ## Device bytes -/

theorem decodeIr8_sddraByte (address : BitVec 7) : decodeIr8 (sddraByte address) = some (.sddra address) := by
  revert address
  decide

end Sys2Proof
end

