-- ==== Sys2Proof/Laws/State.lean ====
section
/-!
SUPPORT. One lemma per field per update of the state, so that no proof unfolds a record update.
-/

namespace Sys2Proof.Machine

/-! ### `State.setSeq` -/

@[simp] theorem State.setSeq_cfg (q : Seq) (s : State) : (s.setSeq q).cfg = s.cfg := rfl
@[simp] theorem State.setSeq_mirror (q : Seq) (s : State) : (s.setSeq q).mirror = s.mirror := rfl
@[simp] theorem State.setSeq_latches (q : Seq) (s : State) : (s.setSeq q).latches = s.latches := rfl
@[simp] theorem State.setSeq_seq (q : Seq) (s : State) : (s.setSeq q).seq = q := rfl
@[simp] theorem State.setSeq_lc (q : Seq) (s : State) : (s.setSeq q).lc = s.lc := rfl
@[simp] theorem State.setSeq_violPreinit (q : Seq) (s : State) : (s.setSeq q).violPreinit = s.violPreinit := rfl
@[simp] theorem State.setSeq_violStale (q : Seq) (s : State) : (s.setSeq q).violStale = s.violStale := rfl
@[simp] theorem State.setSeq_errRsvd (q : Seq) (s : State) : (s.setSeq q).errRsvd = s.errRsvd := rfl
@[simp] theorem State.setSeq_nph (q : Seq) (s : State) : (s.setSeq q).nph = s.nph := rfl
@[simp] theorem State.setSeq_mirrorStale (q : Seq) (s : State) : (s.setSeq q).mirrorStale = s.mirrorStale := rfl
@[simp] theorem State.setSeq_devResetSeen (q : Seq) (s : State) : (s.setSeq q).devResetSeen = s.devResetSeen := rfl
@[simp] theorem State.setSeq_outcome (q : Seq) (s : State) : (s.setSeq q).outcome = s.outcome := rfl
@[simp] theorem State.setSeq_refusedRun (q : Seq) (s : State) : (s.setSeq q).refusedRun = s.refusedRun := rfl
@[simp] theorem State.setSeq_out (q : Seq) (s : State) : (s.setSeq q).out = s.out := rfl
@[simp] theorem State.setSeq_modes (q : Seq) (s : State) : (s.setSeq q).modes = s.modes := rfl
@[simp] theorem State.setSeq_port (q : Seq) (s : State) : (s.setSeq q).port = s.port := rfl
@[simp] theorem State.setSeq_call (q : Seq) (s : State) : (s.setSeq q).call = s.call := rfl
@[simp] theorem State.setSeq_env (q : Seq) (s : State) : (s.setSeq q).env = s.env := rfl

/-! ### `State.setMirror` -/

@[simp] theorem State.setMirror_cfg (m : Mirror) (s : State) : (s.setMirror m).cfg = s.cfg := rfl
@[simp] theorem State.setMirror_mirror (m : Mirror) (s : State) : (s.setMirror m).mirror = m := rfl
@[simp] theorem State.setMirror_latches (m : Mirror) (s : State) : (s.setMirror m).latches = s.latches := rfl
@[simp] theorem State.setMirror_seq (m : Mirror) (s : State) : (s.setMirror m).seq = s.seq := rfl
@[simp] theorem State.setMirror_lc (m : Mirror) (s : State) : (s.setMirror m).lc = s.lc := rfl
@[simp] theorem State.setMirror_violPreinit (m : Mirror) (s : State) : (s.setMirror m).violPreinit = s.violPreinit := rfl
@[simp] theorem State.setMirror_violStale (m : Mirror) (s : State) : (s.setMirror m).violStale = s.violStale := rfl
@[simp] theorem State.setMirror_errRsvd (m : Mirror) (s : State) : (s.setMirror m).errRsvd = s.errRsvd := rfl
@[simp] theorem State.setMirror_nph (m : Mirror) (s : State) : (s.setMirror m).nph = s.nph := rfl
@[simp] theorem State.setMirror_mirrorStale (m : Mirror) (s : State) : (s.setMirror m).mirrorStale = s.mirrorStale := rfl
@[simp] theorem State.setMirror_devResetSeen (m : Mirror) (s : State) : (s.setMirror m).devResetSeen = s.devResetSeen := rfl
@[simp] theorem State.setMirror_outcome (m : Mirror) (s : State) : (s.setMirror m).outcome = s.outcome := rfl
@[simp] theorem State.setMirror_refusedRun (m : Mirror) (s : State) : (s.setMirror m).refusedRun = s.refusedRun := rfl
@[simp] theorem State.setMirror_out (m : Mirror) (s : State) : (s.setMirror m).out = s.out := rfl
@[simp] theorem State.setMirror_modes (m : Mirror) (s : State) : (s.setMirror m).modes = s.modes := rfl
@[simp] theorem State.setMirror_port (m : Mirror) (s : State) : (s.setMirror m).port = s.port := rfl
@[simp] theorem State.setMirror_call (m : Mirror) (s : State) : (s.setMirror m).call = s.call := rfl
@[simp] theorem State.setMirror_env (m : Mirror) (s : State) : (s.setMirror m).env = s.env := rfl

/-! ### `State.setPort` -/

@[simp] theorem State.setPort_cfg (words : List Word) (s : State) : (s.setPort words).cfg = s.cfg := rfl
@[simp] theorem State.setPort_mirror (words : List Word) (s : State) : (s.setPort words).mirror = s.mirror := rfl
@[simp] theorem State.setPort_latches (words : List Word) (s : State) : (s.setPort words).latches = s.latches := rfl
@[simp] theorem State.setPort_seq (words : List Word) (s : State) : (s.setPort words).seq = s.seq := rfl
@[simp] theorem State.setPort_lc (words : List Word) (s : State) : (s.setPort words).lc = s.lc := rfl
@[simp] theorem State.setPort_violPreinit (words : List Word) (s : State) : (s.setPort words).violPreinit = s.violPreinit := rfl
@[simp] theorem State.setPort_violStale (words : List Word) (s : State) : (s.setPort words).violStale = s.violStale := rfl
@[simp] theorem State.setPort_errRsvd (words : List Word) (s : State) : (s.setPort words).errRsvd = s.errRsvd := rfl
@[simp] theorem State.setPort_nph (words : List Word) (s : State) : (s.setPort words).nph = s.nph := rfl
@[simp] theorem State.setPort_mirrorStale (words : List Word) (s : State) : (s.setPort words).mirrorStale = s.mirrorStale := rfl
@[simp] theorem State.setPort_devResetSeen (words : List Word) (s : State) : (s.setPort words).devResetSeen = s.devResetSeen := rfl
@[simp] theorem State.setPort_outcome (words : List Word) (s : State) : (s.setPort words).outcome = s.outcome := rfl
@[simp] theorem State.setPort_refusedRun (words : List Word) (s : State) : (s.setPort words).refusedRun = s.refusedRun := rfl
@[simp] theorem State.setPort_out (words : List Word) (s : State) : (s.setPort words).out = s.out := rfl
@[simp] theorem State.setPort_modes (words : List Word) (s : State) : (s.setPort words).modes = s.modes := rfl
@[simp] theorem State.setPort_port (words : List Word) (s : State) : (s.setPort words).port = words := rfl
@[simp] theorem State.setPort_call (words : List Word) (s : State) : (s.setPort words).call = s.call := rfl
@[simp] theorem State.setPort_env (words : List Word) (s : State) : (s.setPort words).env = s.env := rfl

/-! ### `State.clearCall` -/

@[simp] theorem State.clearCall_cfg (s : State) : s.clearCall.cfg = s.cfg := rfl
@[simp] theorem State.clearCall_mirror (s : State) : s.clearCall.mirror = s.mirror := rfl
@[simp] theorem State.clearCall_latches (s : State) : s.clearCall.latches = s.latches := rfl
@[simp] theorem State.clearCall_seq (s : State) : s.clearCall.seq = s.seq := rfl
@[simp] theorem State.clearCall_lc (s : State) : s.clearCall.lc = s.lc := rfl
@[simp] theorem State.clearCall_violPreinit (s : State) : s.clearCall.violPreinit = s.violPreinit := rfl
@[simp] theorem State.clearCall_violStale (s : State) : s.clearCall.violStale = s.violStale := rfl
@[simp] theorem State.clearCall_errRsvd (s : State) : s.clearCall.errRsvd = s.errRsvd := rfl
@[simp] theorem State.clearCall_nph (s : State) : s.clearCall.nph = s.nph := rfl
@[simp] theorem State.clearCall_mirrorStale (s : State) : s.clearCall.mirrorStale = s.mirrorStale := rfl
@[simp] theorem State.clearCall_devResetSeen (s : State) : s.clearCall.devResetSeen = s.devResetSeen := rfl
@[simp] theorem State.clearCall_outcome (s : State) : s.clearCall.outcome = s.outcome := rfl
@[simp] theorem State.clearCall_refusedRun (s : State) : s.clearCall.refusedRun = s.refusedRun := rfl
@[simp] theorem State.clearCall_out (s : State) : s.clearCall.out = s.out := rfl
@[simp] theorem State.clearCall_modes (s : State) : s.clearCall.modes = s.modes := rfl
@[simp] theorem State.clearCall_port (s : State) : s.clearCall.port = s.port := rfl
@[simp] theorem State.clearCall_call (s : State) : s.clearCall.call = none := rfl
@[simp] theorem State.clearCall_env (s : State) : s.clearCall.env = s.env := rfl

/-! ### `State.setEnv` -/

@[simp] theorem State.setEnv_cfg (actions : List EnvAction) (s : State) : (s.setEnv actions).cfg = s.cfg := rfl
@[simp] theorem State.setEnv_mirror (actions : List EnvAction) (s : State) : (s.setEnv actions).mirror = s.mirror := rfl
@[simp] theorem State.setEnv_latches (actions : List EnvAction) (s : State) : (s.setEnv actions).latches = s.latches := rfl
@[simp] theorem State.setEnv_seq (actions : List EnvAction) (s : State) : (s.setEnv actions).seq = s.seq := rfl
@[simp] theorem State.setEnv_lc (actions : List EnvAction) (s : State) : (s.setEnv actions).lc = s.lc := rfl
@[simp] theorem State.setEnv_violPreinit (actions : List EnvAction) (s : State) : (s.setEnv actions).violPreinit = s.violPreinit := rfl
@[simp] theorem State.setEnv_violStale (actions : List EnvAction) (s : State) : (s.setEnv actions).violStale = s.violStale := rfl
@[simp] theorem State.setEnv_errRsvd (actions : List EnvAction) (s : State) : (s.setEnv actions).errRsvd = s.errRsvd := rfl
@[simp] theorem State.setEnv_nph (actions : List EnvAction) (s : State) : (s.setEnv actions).nph = s.nph := rfl
@[simp] theorem State.setEnv_mirrorStale (actions : List EnvAction) (s : State) : (s.setEnv actions).mirrorStale = s.mirrorStale := rfl
@[simp] theorem State.setEnv_devResetSeen (actions : List EnvAction) (s : State) : (s.setEnv actions).devResetSeen = s.devResetSeen := rfl
@[simp] theorem State.setEnv_outcome (actions : List EnvAction) (s : State) : (s.setEnv actions).outcome = s.outcome := rfl
@[simp] theorem State.setEnv_refusedRun (actions : List EnvAction) (s : State) : (s.setEnv actions).refusedRun = s.refusedRun := rfl
@[simp] theorem State.setEnv_out (actions : List EnvAction) (s : State) : (s.setEnv actions).out = s.out := rfl
@[simp] theorem State.setEnv_modes (actions : List EnvAction) (s : State) : (s.setEnv actions).modes = s.modes := rfl
@[simp] theorem State.setEnv_port (actions : List EnvAction) (s : State) : (s.setEnv actions).port = s.port := rfl
@[simp] theorem State.setEnv_call (actions : List EnvAction) (s : State) : (s.setEnv actions).call = s.call := rfl
@[simp] theorem State.setEnv_env (actions : List EnvAction) (s : State) : (s.setEnv actions).env = actions := rfl

/-! ### `State.noteLifecycle` -/

@[simp] theorem State.noteLifecycle_cfg (s : State) : s.noteLifecycle.cfg = s.cfg := rfl
@[simp] theorem State.noteLifecycle_mirror (s : State) : s.noteLifecycle.mirror = s.mirror := rfl
@[simp] theorem State.noteLifecycle_latches (s : State) : s.noteLifecycle.latches = s.latches := rfl
@[simp] theorem State.noteLifecycle_seq (s : State) : s.noteLifecycle.seq = s.seq := rfl
@[simp] theorem State.noteLifecycle_lc (s : State) : s.noteLifecycle.lc = s.lc := rfl
@[simp] theorem State.noteLifecycle_violPreinit (s : State) : s.noteLifecycle.violPreinit = (s.violPreinit || decide (s.lc = .preInit)) := rfl
@[simp] theorem State.noteLifecycle_violStale (s : State) : s.noteLifecycle.violStale = (s.violStale || s.mirrorStale) := rfl
@[simp] theorem State.noteLifecycle_errRsvd (s : State) : s.noteLifecycle.errRsvd = s.errRsvd := rfl
@[simp] theorem State.noteLifecycle_nph (s : State) : s.noteLifecycle.nph = s.nph := rfl
@[simp] theorem State.noteLifecycle_mirrorStale (s : State) : s.noteLifecycle.mirrorStale = s.mirrorStale := rfl
@[simp] theorem State.noteLifecycle_devResetSeen (s : State) : s.noteLifecycle.devResetSeen = s.devResetSeen := rfl
@[simp] theorem State.noteLifecycle_outcome (s : State) : s.noteLifecycle.outcome = some (outcomeOf s.violations) := rfl
@[simp] theorem State.noteLifecycle_refusedRun (s : State) : s.noteLifecycle.refusedRun = s.refusedRun := rfl
@[simp] theorem State.noteLifecycle_out (s : State) : s.noteLifecycle.out = s.out := rfl
@[simp] theorem State.noteLifecycle_modes (s : State) : s.noteLifecycle.modes = s.modes := rfl
@[simp] theorem State.noteLifecycle_port (s : State) : s.noteLifecycle.port = s.port := rfl
@[simp] theorem State.noteLifecycle_call (s : State) : s.noteLifecycle.call = s.call := rfl
@[simp] theorem State.noteLifecycle_env (s : State) : s.noteLifecycle.env = s.env := rfl

/-! ### `State.beginInit` -/

@[simp] theorem State.beginInit_cfg (s : State) : s.beginInit.cfg = s.cfg := rfl
@[simp] theorem State.beginInit_mirror (s : State) : s.beginInit.mirror = s.mirror := rfl
@[simp] theorem State.beginInit_latches (s : State) : s.beginInit.latches = s.latches := rfl
@[simp] theorem State.beginInit_seq (s : State) : s.beginInit.seq = s.seq := rfl
@[simp] theorem State.beginInit_lc (s : State) : s.beginInit.lc = .initialising := rfl
@[simp] theorem State.beginInit_violPreinit (s : State) : s.beginInit.violPreinit = s.violPreinit := rfl
@[simp] theorem State.beginInit_violStale (s : State) : s.beginInit.violStale = s.violStale := rfl
@[simp] theorem State.beginInit_errRsvd (s : State) : s.beginInit.errRsvd = s.errRsvd := rfl
@[simp] theorem State.beginInit_nph (s : State) : s.beginInit.nph = s.nph := rfl
@[simp] theorem State.beginInit_mirrorStale (s : State) : s.beginInit.mirrorStale = s.mirrorStale := rfl
@[simp] theorem State.beginInit_devResetSeen (s : State) : s.beginInit.devResetSeen = false := rfl
@[simp] theorem State.beginInit_outcome (s : State) : s.beginInit.outcome = some .performed := rfl
@[simp] theorem State.beginInit_refusedRun (s : State) : s.beginInit.refusedRun = s.refusedRun := rfl
@[simp] theorem State.beginInit_out (s : State) : s.beginInit.out = s.out := rfl
@[simp] theorem State.beginInit_modes (s : State) : s.beginInit.modes = s.modes := rfl
@[simp] theorem State.beginInit_port (s : State) : s.beginInit.port = s.port := rfl
@[simp] theorem State.beginInit_call (s : State) : s.beginInit.call = s.call := rfl
@[simp] theorem State.beginInit_env (s : State) : s.beginInit.env = s.env := rfl

/-! ### `State.refuse` -/

@[simp] theorem State.refuse_cfg (code : ReasonCode) (s : State) : (s.refuse code).cfg = s.cfg := rfl
@[simp] theorem State.refuse_mirror (code : ReasonCode) (s : State) : (s.refuse code).mirror = s.mirror := rfl
@[simp] theorem State.refuse_latches (code : ReasonCode) (s : State) : (s.refuse code).latches = s.latches := rfl
@[simp] theorem State.refuse_seq (code : ReasonCode) (s : State) : (s.refuse code).seq = s.seq := rfl
@[simp] theorem State.refuse_lc (code : ReasonCode) (s : State) : (s.refuse code).lc = s.lc := rfl
@[simp] theorem State.refuse_violPreinit (code : ReasonCode) (s : State) : (s.refuse code).violPreinit = s.violPreinit := rfl
@[simp] theorem State.refuse_violStale (code : ReasonCode) (s : State) : (s.refuse code).violStale = s.violStale := rfl
@[simp] theorem State.refuse_errRsvd (code : ReasonCode) (s : State) : (s.refuse code).errRsvd = s.errRsvd := rfl
@[simp] theorem State.refuse_nph (code : ReasonCode) (s : State) : (s.refuse code).nph = s.nph := rfl
@[simp] theorem State.refuse_mirrorStale (code : ReasonCode) (s : State) : (s.refuse code).mirrorStale = s.mirrorStale := rfl
@[simp] theorem State.refuse_devResetSeen (code : ReasonCode) (s : State) : (s.refuse code).devResetSeen = s.devResetSeen := rfl
@[simp] theorem State.refuse_outcome (code : ReasonCode) (s : State) : (s.refuse code).outcome = some (.refused code) := rfl
@[simp] theorem State.refuse_refusedRun (code : ReasonCode) (s : State) : (s.refuse code).refusedRun = true := rfl
@[simp] theorem State.refuse_out (code : ReasonCode) (s : State) : (s.refuse code).out = s.out := rfl
@[simp] theorem State.refuse_modes (code : ReasonCode) (s : State) : (s.refuse code).modes = s.modes := rfl
@[simp] theorem State.refuse_port (code : ReasonCode) (s : State) : (s.refuse code).port = s.port := rfl
@[simp] theorem State.refuse_call (code : ReasonCode) (s : State) : (s.refuse code).call = s.call := rfl
@[simp] theorem State.refuse_env (code : ReasonCode) (s : State) : (s.refuse code).env = s.env := rfl

/-! ### `State.refuseReserved` -/

@[simp] theorem State.refuseReserved_cfg (s : State) : s.refuseReserved.cfg = s.cfg := rfl
@[simp] theorem State.refuseReserved_mirror (s : State) : s.refuseReserved.mirror = s.mirror := rfl
@[simp] theorem State.refuseReserved_latches (s : State) : s.refuseReserved.latches = s.latches := rfl
@[simp] theorem State.refuseReserved_seq (s : State) : s.refuseReserved.seq = s.seq := rfl
@[simp] theorem State.refuseReserved_lc (s : State) : s.refuseReserved.lc = s.lc := rfl
@[simp] theorem State.refuseReserved_violPreinit (s : State) : s.refuseReserved.violPreinit = s.violPreinit := rfl
@[simp] theorem State.refuseReserved_violStale (s : State) : s.refuseReserved.violStale = s.violStale := rfl
@[simp] theorem State.refuseReserved_errRsvd (s : State) : s.refuseReserved.errRsvd = true := rfl
@[simp] theorem State.refuseReserved_nph (s : State) : s.refuseReserved.nph = s.nph := rfl
@[simp] theorem State.refuseReserved_mirrorStale (s : State) : s.refuseReserved.mirrorStale = s.mirrorStale := rfl
@[simp] theorem State.refuseReserved_devResetSeen (s : State) : s.refuseReserved.devResetSeen = s.devResetSeen := rfl
@[simp] theorem State.refuseReserved_outcome (s : State) : s.refuseReserved.outcome = some (.refused .reservedRequest) := rfl
@[simp] theorem State.refuseReserved_refusedRun (s : State) : s.refuseReserved.refusedRun = true := rfl
@[simp] theorem State.refuseReserved_out (s : State) : s.refuseReserved.out = s.out := rfl
@[simp] theorem State.refuseReserved_modes (s : State) : s.refuseReserved.modes = s.modes := rfl
@[simp] theorem State.refuseReserved_port (s : State) : s.refuseReserved.port = s.port := rfl
@[simp] theorem State.refuseReserved_call (s : State) : s.refuseReserved.call = s.call := rfl
@[simp] theorem State.refuseReserved_env (s : State) : s.refuseReserved.env = s.env := rfl

/-! ### `State.issue` -/

@[simp] theorem State.issue_cfg (t : List Beat) (s : State) : (s.issue t).cfg = s.cfg := rfl
@[simp] theorem State.issue_mirror (t : List Beat) (s : State) : (s.issue t).mirror = s.mirror := rfl
@[simp] theorem State.issue_latches (t : List Beat) (s : State) : (s.issue t).latches = s.latches := rfl
@[simp] theorem State.issue_seq (t : List Beat) (s : State) : (s.issue t).seq = s.seq.append t := rfl
@[simp] theorem State.issue_lc (t : List Beat) (s : State) : (s.issue t).lc = s.lc := rfl
@[simp] theorem State.issue_violPreinit (t : List Beat) (s : State) : (s.issue t).violPreinit = s.violPreinit := rfl
@[simp] theorem State.issue_violStale (t : List Beat) (s : State) : (s.issue t).violStale = s.violStale := rfl
@[simp] theorem State.issue_errRsvd (t : List Beat) (s : State) : (s.issue t).errRsvd = s.errRsvd := rfl
@[simp] theorem State.issue_nph (t : List Beat) (s : State) : (s.issue t).nph = s.nph := rfl
@[simp] theorem State.issue_mirrorStale (t : List Beat) (s : State) : (s.issue t).mirrorStale = s.mirrorStale := rfl
@[simp] theorem State.issue_devResetSeen (t : List Beat) (s : State) : (s.issue t).devResetSeen = s.devResetSeen := rfl
@[simp] theorem State.issue_outcome (t : List Beat) (s : State) : (s.issue t).outcome = s.outcome := rfl
@[simp] theorem State.issue_refusedRun (t : List Beat) (s : State) : (s.issue t).refusedRun = s.refusedRun := rfl
@[simp] theorem State.issue_out (t : List Beat) (s : State) : (s.issue t).out = s.out := rfl
@[simp] theorem State.issue_modes (t : List Beat) (s : State) : (s.issue t).modes = s.modes := rfl
@[simp] theorem State.issue_port (t : List Beat) (s : State) : (s.issue t).port = s.port := rfl
@[simp] theorem State.issue_call (t : List Beat) (s : State) : (s.issue t).call = s.call := rfl
@[simp] theorem State.issue_env (t : List Beat) (s : State) : (s.issue t).env = s.env := rfl

/-! ### `State.setEntryMode` -/

@[simp] theorem State.setEntryMode_cfg (id shift : Bool) (s : State) : (s.setEntryMode id shift).cfg = s.cfg := rfl
@[simp] theorem State.setEntryMode_mirror (id shift : Bool) (s : State) : (s.setEntryMode id shift).mirror = s.mirror.setEntry id shift := rfl
@[simp] theorem State.setEntryMode_latches (id shift : Bool) (s : State) : (s.setEntryMode id shift).latches = s.latches := rfl
@[simp] theorem State.setEntryMode_seq (id shift : Bool) (s : State) : (s.setEntryMode id shift).seq = s.seq.append (transferByte s.cfg false false (entryByte id shift)) := rfl
@[simp] theorem State.setEntryMode_lc (id shift : Bool) (s : State) : (s.setEntryMode id shift).lc = s.lc := rfl
@[simp] theorem State.setEntryMode_violPreinit (id shift : Bool) (s : State) : (s.setEntryMode id shift).violPreinit = s.violPreinit := rfl
@[simp] theorem State.setEntryMode_violStale (id shift : Bool) (s : State) : (s.setEntryMode id shift).violStale = s.violStale := rfl
@[simp] theorem State.setEntryMode_errRsvd (id shift : Bool) (s : State) : (s.setEntryMode id shift).errRsvd = s.errRsvd := rfl
@[simp] theorem State.setEntryMode_nph (id shift : Bool) (s : State) : (s.setEntryMode id shift).nph = s.nph := rfl
@[simp] theorem State.setEntryMode_mirrorStale (id shift : Bool) (s : State) : (s.setEntryMode id shift).mirrorStale = s.mirrorStale := rfl
@[simp] theorem State.setEntryMode_devResetSeen (id shift : Bool) (s : State) : (s.setEntryMode id shift).devResetSeen = s.devResetSeen := rfl
@[simp] theorem State.setEntryMode_outcome (id shift : Bool) (s : State) : (s.setEntryMode id shift).outcome = s.outcome := rfl
@[simp] theorem State.setEntryMode_refusedRun (id shift : Bool) (s : State) : (s.setEntryMode id shift).refusedRun = s.refusedRun := rfl
@[simp] theorem State.setEntryMode_out (id shift : Bool) (s : State) : (s.setEntryMode id shift).out = s.out := rfl
@[simp] theorem State.setEntryMode_modes (id shift : Bool) (s : State) : (s.setEntryMode id shift).modes = s.modes := rfl
@[simp] theorem State.setEntryMode_port (id shift : Bool) (s : State) : (s.setEntryMode id shift).port = s.port := rfl
@[simp] theorem State.setEntryMode_call (id shift : Bool) (s : State) : (s.setEntryMode id shift).call = s.call := rfl
@[simp] theorem State.setEntryMode_env (id shift : Bool) (s : State) : (s.setEntryMode id shift).env = s.env := rfl

/-! ### `State.setDisplayControl` -/

@[simp] theorem State.setDisplayControl_cfg (d c b : Bool) (s : State) : (s.setDisplayControl d c b).cfg = s.cfg := rfl
@[simp] theorem State.setDisplayControl_mirror (d c b : Bool) (s : State) : (s.setDisplayControl d c b).mirror = s.mirror.setDisplay d c b := rfl
@[simp] theorem State.setDisplayControl_latches (d c b : Bool) (s : State) : (s.setDisplayControl d c b).latches = s.latches := rfl
@[simp] theorem State.setDisplayControl_seq (d c b : Bool) (s : State) : (s.setDisplayControl d c b).seq = s.seq.append (transferByte s.cfg false false (dctrlByte d c b)) := rfl
@[simp] theorem State.setDisplayControl_lc (d c b : Bool) (s : State) : (s.setDisplayControl d c b).lc = s.lc := rfl
@[simp] theorem State.setDisplayControl_violPreinit (d c b : Bool) (s : State) : (s.setDisplayControl d c b).violPreinit = s.violPreinit := rfl
@[simp] theorem State.setDisplayControl_violStale (d c b : Bool) (s : State) : (s.setDisplayControl d c b).violStale = s.violStale := rfl
@[simp] theorem State.setDisplayControl_errRsvd (d c b : Bool) (s : State) : (s.setDisplayControl d c b).errRsvd = s.errRsvd := rfl
@[simp] theorem State.setDisplayControl_nph (d c b : Bool) (s : State) : (s.setDisplayControl d c b).nph = s.nph := rfl
@[simp] theorem State.setDisplayControl_mirrorStale (d c b : Bool) (s : State) : (s.setDisplayControl d c b).mirrorStale = s.mirrorStale := rfl
@[simp] theorem State.setDisplayControl_devResetSeen (d c b : Bool) (s : State) : (s.setDisplayControl d c b).devResetSeen = s.devResetSeen := rfl
@[simp] theorem State.setDisplayControl_outcome (d c b : Bool) (s : State) : (s.setDisplayControl d c b).outcome = s.outcome := rfl
@[simp] theorem State.setDisplayControl_refusedRun (d c b : Bool) (s : State) : (s.setDisplayControl d c b).refusedRun = s.refusedRun := rfl
@[simp] theorem State.setDisplayControl_out (d c b : Bool) (s : State) : (s.setDisplayControl d c b).out = s.out := rfl
@[simp] theorem State.setDisplayControl_modes (d c b : Bool) (s : State) : (s.setDisplayControl d c b).modes = s.modes := rfl
@[simp] theorem State.setDisplayControl_port (d c b : Bool) (s : State) : (s.setDisplayControl d c b).port = s.port := rfl
@[simp] theorem State.setDisplayControl_call (d c b : Bool) (s : State) : (s.setDisplayControl d c b).call = s.call := rfl
@[simp] theorem State.setDisplayControl_env (d c b : Bool) (s : State) : (s.setDisplayControl d c b).env = s.env := rfl

/-! ### `State.emit` -/

@[simp] theorem State.emit_cfg (beat : Beat) (s : State) : (s.emit beat).cfg = s.cfg := rfl
@[simp] theorem State.emit_mirror (beat : Beat) (s : State) : (s.emit beat).mirror = s.mirror := rfl
@[simp] theorem State.emit_latches (beat : Beat) (s : State) : (s.emit beat).latches = s.latches.drive beat.event := rfl
@[simp] theorem State.emit_seq (beat : Beat) (s : State) : (s.emit beat).seq = s.seq := rfl
@[simp] theorem State.emit_lc (beat : Beat) (s : State) : (s.emit beat).lc = s.lc := rfl
@[simp] theorem State.emit_violPreinit (beat : Beat) (s : State) : (s.emit beat).violPreinit = s.violPreinit := rfl
@[simp] theorem State.emit_violStale (beat : Beat) (s : State) : (s.emit beat).violStale = s.violStale := rfl
@[simp] theorem State.emit_errRsvd (beat : Beat) (s : State) : (s.emit beat).errRsvd = s.errRsvd := rfl
@[simp] theorem State.emit_nph (beat : Beat) (s : State) : (s.emit beat).nph = s.phaseAfter beat.mark := rfl
@[simp] theorem State.emit_mirrorStale (beat : Beat) (s : State) : (s.emit beat).mirrorStale = s.mirrorStale := rfl
@[simp] theorem State.emit_devResetSeen (beat : Beat) (s : State) : (s.emit beat).devResetSeen = s.devResetSeen := rfl
@[simp] theorem State.emit_outcome (beat : Beat) (s : State) : (s.emit beat).outcome = s.outcome := rfl
@[simp] theorem State.emit_refusedRun (beat : Beat) (s : State) : (s.emit beat).refusedRun = s.refusedRun := rfl
@[simp] theorem State.emit_out (beat : Beat) (s : State) : (s.emit beat).out = s.out ++ [beat.event] := rfl
@[simp] theorem State.emit_modes (beat : Beat) (s : State) : (s.emit beat).modes = s.modes := rfl
@[simp] theorem State.emit_port (beat : Beat) (s : State) : (s.emit beat).port = s.port := rfl
@[simp] theorem State.emit_call (beat : Beat) (s : State) : (s.emit beat).call = s.call := rfl
@[simp] theorem State.emit_env (beat : Beat) (s : State) : (s.emit beat).env = s.env := rfl

/-! ### `State.devReset` -/

@[simp] theorem State.devReset_cfg (s : State) : s.devReset.cfg = s.cfg := rfl
@[simp] theorem State.devReset_mirror (s : State) : s.devReset.mirror = s.mirror := rfl
@[simp] theorem State.devReset_latches (s : State) : s.devReset.latches = s.latches := rfl
@[simp] theorem State.devReset_seq (s : State) : s.devReset.seq = s.seq := rfl
@[simp] theorem State.devReset_lc (s : State) : s.devReset.lc = s.lc := rfl
@[simp] theorem State.devReset_violPreinit (s : State) : s.devReset.violPreinit = s.violPreinit := rfl
@[simp] theorem State.devReset_violStale (s : State) : s.devReset.violStale = s.violStale := rfl
@[simp] theorem State.devReset_errRsvd (s : State) : s.devReset.errRsvd = s.errRsvd := rfl
@[simp] theorem State.devReset_nph (s : State) : s.devReset.nph = .unknown := rfl
@[simp] theorem State.devReset_mirrorStale (s : State) : s.devReset.mirrorStale = true := rfl
@[simp] theorem State.devReset_devResetSeen (s : State) : s.devReset.devResetSeen = true := rfl
@[simp] theorem State.devReset_outcome (s : State) : s.devReset.outcome = s.outcome := rfl
@[simp] theorem State.devReset_refusedRun (s : State) : s.devReset.refusedRun = s.refusedRun := rfl
@[simp] theorem State.devReset_out (s : State) : s.devReset.out = s.out := rfl
@[simp] theorem State.devReset_modes (s : State) : s.devReset.modes = s.modes := rfl
@[simp] theorem State.devReset_port (s : State) : s.devReset.port = s.port := rfl
@[simp] theorem State.devReset_call (s : State) : s.devReset.call = s.call := rfl
@[simp] theorem State.devReset_env (s : State) : s.devReset.env = s.env := rfl

/-! ### `State.complete` -/

@[simp] theorem State.complete_cfg (s : State) : s.complete.cfg = s.cfg := by
  cases h : s.lc <;> simp [State.complete, h]
@[simp] theorem State.complete_mirror (s : State) : s.complete.mirror = s.mirror := by
  cases h : s.lc <;> simp [State.complete, h]
@[simp] theorem State.complete_latches (s : State) : s.complete.latches = s.latches := by
  cases h : s.lc <;> simp [State.complete, h]
@[simp] theorem State.complete_seq (s : State) : s.complete.seq = .idle := by
  cases h : s.lc <;> simp [State.complete, h]
@[simp] theorem State.complete_violPreinit (s : State) : s.complete.violPreinit = s.violPreinit := by
  cases h : s.lc <;> simp [State.complete, h]
@[simp] theorem State.complete_violStale (s : State) : s.complete.violStale = s.violStale := by
  cases h : s.lc <;> simp [State.complete, h]
@[simp] theorem State.complete_errRsvd (s : State) : s.complete.errRsvd = s.errRsvd := by
  cases h : s.lc <;> simp [State.complete, h]
@[simp] theorem State.complete_nph (s : State) : s.complete.nph = s.nph := by
  cases h : s.lc <;> simp [State.complete, h]
@[simp] theorem State.complete_devResetSeen (s : State) : s.complete.devResetSeen = s.devResetSeen := by
  cases h : s.lc <;> simp [State.complete, h]
@[simp] theorem State.complete_outcome (s : State) : s.complete.outcome = s.outcome := by
  cases h : s.lc <;> simp [State.complete, h]
@[simp] theorem State.complete_refusedRun (s : State) : s.complete.refusedRun = s.refusedRun := by
  cases h : s.lc <;> simp [State.complete, h]
@[simp] theorem State.complete_out (s : State) : s.complete.out = s.out := by
  cases h : s.lc <;> simp [State.complete, h]
@[simp] theorem State.complete_modes (s : State) : s.complete.modes = s.modes := by
  cases h : s.lc <;> simp [State.complete, h]
@[simp] theorem State.complete_port (s : State) : s.complete.port = s.port := by
  cases h : s.lc <;> simp [State.complete, h]
@[simp] theorem State.complete_call (s : State) : s.complete.call = s.call := by
  cases h : s.lc <;> simp [State.complete, h]
@[simp] theorem State.complete_env (s : State) : s.complete.env = s.env := by
  cases h : s.lc <;> simp [State.complete, h]

theorem State.complete_lc (s : State) : s.complete.lc = if s.lc = .initialising then .ready else s.lc := by
  cases h : s.lc <;> simp [State.complete, h]

theorem State.complete_mirrorStale (s : State) :
    s.complete.mirrorStale = if s.lc = .initialising then s.mirrorStale && s.devResetSeen else s.mirrorStale := by
  cases h : s.lc <;> simp [State.complete, h]

/-! ### The encoder operations that only send a byte -/

@[simp] theorem State.sendByte_eq (rs : Bool) (b : Byte) (s : State) :
    s.sendByte rs b = s.issue (transferByte s.cfg rs false b) := rfl
@[simp] theorem State.clearDisplay_eq (s : State) : s.clearDisplay = s.sendByte false clearByte := rfl
@[simp] theorem State.returnHome_eq (s : State) : s.returnHome = s.sendByte false homeByteValue := rfl
@[simp] theorem State.cursorDisplayShift_eq (sc rl : Bool) (s : State) :
    s.cursorDisplayShift sc rl = s.sendByte false (shiftByte sc rl) := rfl
@[simp] theorem State.sendFunctionSet_eq (dl n f : Bool) (s : State) :
    s.sendFunctionSet dl n f = s.sendByte false (fsetByte dl n f) := rfl
@[simp] theorem State.functionSet_eq (s : State) : s.functionSet = s.sendByte false (functionSetImage s.cfg) := rfl
@[simp] theorem State.setDDRAMAddress_eq (address : BitVec 7) (s : State) :
    s.setDDRAMAddress address = s.sendByte false (sddraByte address) := rfl

/-! ### The mirror -/

@[simp] theorem Mirror.setDisplay_d (d c b : Bool) (m : Mirror) : (m.setDisplay d c b).d = some d := rfl
@[simp] theorem Mirror.setDisplay_c (d c b : Bool) (m : Mirror) : (m.setDisplay d c b).c = some c := rfl
@[simp] theorem Mirror.setDisplay_b (d c b : Bool) (m : Mirror) : (m.setDisplay d c b).b = some b := rfl
@[simp] theorem Mirror.setDisplay_id (d c b : Bool) (m : Mirror) : (m.setDisplay d c b).id = m.id := rfl
@[simp] theorem Mirror.setDisplay_s (d c b : Bool) (m : Mirror) : (m.setDisplay d c b).s = m.s := rfl
@[simp] theorem Mirror.setEntry_d (id s : Bool) (m : Mirror) : (m.setEntry id s).d = m.d := rfl
@[simp] theorem Mirror.setEntry_c (id s : Bool) (m : Mirror) : (m.setEntry id s).c = m.c := rfl
@[simp] theorem Mirror.setEntry_b (id s : Bool) (m : Mirror) : (m.setEntry id s).b = m.b := rfl
@[simp] theorem Mirror.setEntry_id (id s : Bool) (m : Mirror) : (m.setEntry id s).id = some id := rfl
@[simp] theorem Mirror.setEntry_s (id s : Bool) (m : Mirror) : (m.setEntry id s).s = some s := rfl
@[simp] theorem Mirror.dcr_setDisplay (d c b : Bool) (m : Mirror) :
    (m.setDisplay d c b).dcr = some (dctrlByte d c b) := rfl
@[simp] theorem Mirror.emr_setDisplay (d c b : Bool) (m : Mirror) : (m.setDisplay d c b).emr = m.emr := rfl
@[simp] theorem Mirror.emr_setEntry (id s : Bool) (m : Mirror) : (m.setEntry id s).emr = some (entryByte id s) := rfl
@[simp] theorem Mirror.dcr_setEntry (id s : Bool) (m : Mirror) : (m.setEntry id s).dcr = m.dcr := rfl

end Sys2Proof.Machine
end

