-- ==== Sys2Proof/Laws/Ops.lean ====
section
/-!
SUPPORT. One spec lemma per shared operation: everything it can do, said once.
-/

namespace Sys2Proof.Machine

/-! ## The sequencer's trace -/

@[simp] theorem Seq.append_nil (q : Seq) : q.append [] = q := by
  cases q <;> simp [Seq.append]

theorem Seq.append_append (q : Seq) (t u : List Beat) : (q.append t).append u = q.append (t ++ u) := by
  cases q with
  | idle => cases t <;> cases u <;> simp [Seq.append]
  | busy events i => simp [Seq.append]

@[simp] theorem Seq.append_busy (events t : List Beat) (i : Nat) :
    (Seq.busy events i).append t = .busy (events ++ t) i := rfl

@[simp] theorem Seq.remaining_idle : Seq.idle.remaining = [] := rfl

@[simp] theorem Seq.remaining_busy (events : List Beat) (i : Nat) : (Seq.busy events i).remaining = events.drop i := rfl

/-- What an idle sequencer has to emit is the trace it was given. -/
@[simp] theorem Seq.remaining_idle_append (t : List Beat) : (Seq.idle.append t).remaining = t := by
  cases t <;> simp [Seq.append]

/-- The trace is added behind what is still to be emitted. -/
theorem Seq.remaining_append (q : Seq) (t : List Beat) (h : ∀ events i, q = .busy events i → i ≤ events.length) :
    (q.append t).remaining = q.remaining ++ t := by
  cases q with
  | idle => simp
  | busy events i => simp [List.drop_append_of_le_length (h events i rfl)]

theorem State.issue_nil (s : State) : s.issue [] = s := by simp [State.issue, State.setSeq]

theorem State.issue_issue (t u : List Beat) (s : State) : (s.issue t).issue u = s.issue (t ++ u) := by
  simp [State.issue, State.setSeq, Seq.append_append]

/-! ## Accepting a request -/

/-- Everything an accepted or waiting request can do (R141). -/
theorem State.accept_cases {note : State → State} {body : State → Except ReasonCode State} {s : State} {r : Result}
    (h : s.accept note body = r) :
    (∃ events i, s.seq = .busy events i ∧ r = .next s) ∨
    (s.seq = .idle ∧ ∃ t, body (note s) = .ok t ∧ r = .next t) ∨
    (s.seq = .idle ∧ ∃ code, body (note s) = .error code ∧ r = .next ((note s).refuse code)) := by
  subst h
  unfold State.accept
  cases hs : s.seq with
  | busy events i => exact .inl ⟨events, i, rfl, rfl⟩
  | idle =>
    cases hb : body (note s) with
    | ok t => exact .inr (.inl ⟨rfl, t, rfl, rfl⟩)
    | error code => exact .inr (.inr ⟨rfl, code, rfl, rfl⟩)

/-- A request that its checks let through is performed (R141). -/
theorem State.accept_ok {note : State → State} {body : State → Except ReasonCode State} {s t : State}
    (idle : s.seq = .idle) (h : body (note s) = .ok t) : s.accept note body = .next t := by
  simp [State.accept, idle, h]

/-- A request without checks is performed when the sequencer is idle (R141). -/
theorem State.accept_always {note f : State → State} {s : State} (idle : s.seq = .idle) :
    (s.accept note fun u => .ok (f u)) = .next (f (note s)) := by
  simp [State.accept, idle]

/-- A request that its checks stop is refused (R141, R176). -/
theorem State.accept_error {note : State → State} {body : State → Except ReasonCode State} {s : State}
    {code : ReasonCode} (idle : s.seq = .idle) (h : body (note s) = .error code) :
    s.accept note body = .next ((note s).refuse code) := by
  simp [State.accept, idle, h]

/-- While the sequencer is busy a request waits (R141). -/
theorem State.accept_busy {note : State → State} {body : State → Except ReasonCode State} {s : State}
    {events : List Beat} {i : Nat} (busy : s.seq = .busy events i) : s.accept note body = .next s := by
  simp [State.accept, busy]

/-! ## Characters and shifts: one trace each -/

/-- The trace of one character (R108). -/
def characterTrace (cfg : Cfg) (c : StrChar) : List Beat :=
  if kindSends c.kind then transferByte cfg true false c.code else []

/-- The trace of one step of a shift request (R152). -/
def shiftStepTrace (cfg : Cfg) (sc rl : Bool) (delay : Nat) : List Beat :=
  transferByte cfg false false (shiftByte sc rl) ++ if 0 < delay then [plain (.sleep delay)] else []

theorem State.writeCharacter_eq_issue (kind : CharKind) (code : Byte) (s : State) :
    s.writeCharacter kind code = s.issue (characterTrace s.cfg { kind := kind, code := code }) := by
  cases h : kindSends kind <;> simp [State.writeCharacter, characterTrace, h, State.issue_nil]

/-- Every character of a string is sent, in order (R109). -/
theorem State.writeString_eq_issue (chars : List StrChar) (s : State) :
    s.writeString chars = s.issue (chars.flatMap (characterTrace s.cfg)) := by
  induction chars generalizing s with
  | nil => simp [State.writeString, State.issue_nil]
  | cons c rest ih => simp [State.writeString, ih, State.writeCharacter_eq_issue, State.issue_issue]

theorem State.shiftStep_eq_issue (sc rl : Bool) (delay : Nat) (s : State) :
    (s.cursorDisplayShift sc rl).interStepDelay delay = s.issue (shiftStepTrace s.cfg sc rl delay) := by
  by_cases h : 0 < delay <;> simp [State.interStepDelay, shiftStepTrace, h, State.issue_issue]

/-- A shift request is its one step, `count` times (R152). -/
theorem State.shiftRepeat_eq_issue (sc rl : Bool) (count : Nat) (delay : Nat) (s : State) :
    s.shiftRepeat sc rl count delay =
      s.issue (List.replicate count (shiftStepTrace s.cfg sc rl delay)).flatten := by
  induction count generalizing s with
  | zero => simp [State.shiftRepeat, State.issue_nil]
  | succ n ih =>
    rw [State.shiftRepeat, State.shiftStep_eq_issue, ih]
    simp [State.issue_issue, List.replicate_succ]

/-! ## Emitting -/

/-- One step of a busy sequencer (R95): nothing more to emit; an event that is not the last; the last event. -/
theorem State.advance_cases (events : List Beat) (i : Nat) (s : State) :
    (events.length ≤ i ∧ s.advance events i = s.complete) ∨
    (∃ beat, events[i]? = some beat ∧ i + 1 < events.length ∧
      s.advance events i = (s.emit beat).setSeq (.busy events (i + 1))) ∨
    (∃ beat, events[i]? = some beat ∧ i + 1 = events.length ∧ s.advance events i = (s.emit beat).complete) := by
  unfold State.advance
  cases h : events[i]? with
  | none => exact .inl ⟨by simpa using h, rfl⟩
  | some beat =>
    have hi : i < events.length := (List.getElem?_eq_some_iff.mp h).1
    by_cases hl : i + 1 < events.length
    · exact .inr (.inl ⟨beat, rfl, hl, by simp [hl]⟩)
    · exact .inr (.inr ⟨beat, rfl, by omega, by simp [hl]⟩)

/-- What one step of a busy sequencer leaves alone: everything but the outputs, the position, and what the end of `INIT`
writes. -/
theorem State.advance_frame (events : List Beat) (i : Nat) (s : State) :
    (s.advance events i).cfg = s.cfg ∧ (s.advance events i).mirror = s.mirror ∧
    (s.advance events i).violPreinit = s.violPreinit ∧ (s.advance events i).violStale = s.violStale ∧
    (s.advance events i).errRsvd = s.errRsvd ∧ (s.advance events i).devResetSeen = s.devResetSeen ∧
    (s.advance events i).outcome = s.outcome ∧ (s.advance events i).refusedRun = s.refusedRun ∧
    (s.advance events i).modes = s.modes ∧ (s.advance events i).port = s.port ∧
    (s.advance events i).call = s.call ∧ (s.advance events i).env = s.env := by
  rcases s.advance_cases events i with ⟨-, h⟩ | ⟨beat, -, -, h⟩ | ⟨beat, -, -, h⟩ <;> simp [h]

/-! ## Construction -/

/-- Everything a reconstruction that succeeds can give (R190; log entry 13). -/
theorem State.reconstruct_ok {p : ConstructionParams} {s t : State} (h : s.reconstruct p = .ok t) :
    ∃ fresh, construct p = .ok fresh ∧
      t = { fresh with
        nph := s.nph, mirrorStale := s.mirrorStale, refusedRun := s.refusedRun, out := s.out, port := s.port,
        call := s.call, env := s.env } := by
  unfold State.reconstruct at h
  cases hc : construct p with
  | error code => simp [hc] at h
  | ok fresh => exact ⟨fresh, rfl, by simpa [hc] using h.symm⟩

/-! ## A step -/

/-- Everything the block's own step can be (R23, R95, R67). -/
theorem blockStep_cases {s : State} {r : Result} (h : blockStep s = r) :
    (∃ events i, s.seq = .busy events i ∧ r = .next (s.advance events i)) ∨
    (s.seq = .idle ∧ s.fetch = .nothing ∧ r = .next s) ∨
    (s.seq = .idle ∧ ∃ t, s.fetch = .reserved t ∧ r = .next t) ∨
    (s.seq = .idle ∧ ∃ i t, s.fetch = .instr i t ∧ r = exec i t) ∨
    (s.seq = .idle ∧ s.fetch = .noDeviceWord ∧ r = .refused .notADeviceWord) := by
  subst h
  unfold blockStep
  cases hs : s.seq with
  | busy events i => exact .inl ⟨events, i, rfl, rfl⟩
  | idle =>
    refine .inr ?_
    cases hf : s.fetch with
    | nothing => exact .inl ⟨rfl, rfl, rfl⟩
    | reserved t => exact .inr (.inl ⟨rfl, t, rfl, rfl⟩)
    | instr i t => exact .inr (.inr (.inl ⟨rfl, i, t, rfl, rfl⟩))
    | noDeviceWord => exact .inr (.inr (.inr ⟨rfl, rfl, rfl⟩))

/-- Everything a step can be, by what the environment does. -/
theorem step_cases {s : State} {r : Result} (h : step s = r) :
    (s.env = [] ∧ blockStep s = r) ∨
    (∃ rest, s.env = .quiet :: rest ∧ blockStep (s.setEnv rest) = r) ∨
    (∃ rest, s.env = .devReset :: rest ∧ r = .next (s.setEnv rest).devReset) ∨
    (∃ p rest t, s.env = .construct p :: rest ∧ (s.setEnv rest).reconstruct p = .ok t ∧ r = .next t) ∨
    (∃ p rest code, s.env = .construct p :: rest ∧ (s.setEnv rest).reconstruct p = .error code ∧
      r = .fault .badConfiguration) := by
  subst h
  unfold step
  cases he : s.env with
  | nil => exact .inl ⟨rfl, rfl⟩
  | cons action rest =>
    cases action with
    | quiet => exact .inr (.inl ⟨rest, rfl, rfl⟩)
    | devReset => exact .inr (.inr (.inl ⟨rest, rfl, rfl⟩))
    | construct p =>
      refine .inr (.inr (.inr ?_))
      cases hr : (s.setEnv rest).reconstruct p with
      | ok t => exact .inl ⟨p, rest, t, rfl, hr, by simp [hr]⟩
      | error code => exact .inr ⟨p, rest, code, rfl, hr, by simp [hr]⟩

/-- Everything an idle sequencer can find (R67, R70, R74). -/
theorem State.fetch_cases (s : State) :
    (∃ word, s.call = some word ∧ decodeDevice word = none ∧ s.fetch = .noDeviceWord) ∨
    (∃ word i, s.call = some word ∧ decodeDevice word = some i ∧ s.fetch = .instr i s.clearCall) ∨
    (s.call = none ∧ decodePort s.port = .waiting ∧ s.fetch = .nothing) ∨
    (∃ rest, s.call = none ∧ decodePort s.port = .reserved rest ∧
      s.fetch = .reserved (s.setPort rest).refuseReserved) ∨
    (∃ i rest, s.call = none ∧ decodePort s.port = .request i rest ∧ s.fetch = .instr i (s.setPort rest)) := by
  unfold State.fetch
  cases hc : s.call with
  | some word =>
    cases hd : decodeDevice word with
    | none => exact .inl ⟨word, rfl, hd, by simp [hd]⟩
    | some i => exact .inr (.inl ⟨word, i, rfl, hd, by simp [hd]⟩)
  | none =>
    refine .inr (.inr ?_)
    cases hp : decodePort s.port with
    | waiting => exact .inl ⟨rfl, rfl, rfl⟩
    | reserved rest => exact .inr (.inl ⟨rest, rfl, rfl, rfl⟩)
    | request i rest => exact .inr (.inr ⟨i, rest, rfl, rfl, rfl⟩)

end Sys2Proof.Machine
end

