-- ==== Sys2Proof/Laws/Exec.lean ====
section
/-!
SUPPORT. What each arm of `exec` is, as an acceptance with one body or as one issued trace; and everything a request
can do, said once.
-/

namespace Sys2Proof.Machine

/-! ## Traces of bytes -/

theorem transferByte_ne_nil (cfg : Cfg) (rs rw : Bool) (b : Byte) : transferByte cfg rs rw b ≠ [] := by
  cases h : cfg.busw <;> simp [transferByte, h, transfer4, transfer8, pulse]

theorem Seq.append_idle_of_ne_nil {t : List Beat} (h : t ≠ []) : Seq.idle.append t = .busy t 0 := by
  cases t <;> simp_all [Seq.append]

@[simp] theorem Seq.append_idle_transferByte (cfg : Cfg) (rs rw : Bool) (b : Byte) :
    Seq.idle.append (transferByte cfg rs rw b) = .busy (transferByte cfg rs rw b) 0 :=
  Seq.append_idle_of_ne_nil (transferByte_ne_nil cfg rs rw b)

/-- A trace made of whole bytes and delays between them: what every operation but the raw nibbles sends (R44).  Every
byte, with its `rs`, is one that `P` lets through. -/
inductive ByteTrace (cfg : Cfg) (P : Bool → Byte → Prop) : List Beat → Prop where
  | nil : ByteTrace cfg P []
  | byte (rs : Bool) (b : Byte) {t : List Beat} :
    P rs b → ByteTrace cfg P t → ByteTrace cfg P (transferByte cfg rs false b ++ t)
  | delay (d : Nat) {t : List Beat} : ByteTrace cfg P t → ByteTrace cfg P (plain (.sleep d) :: t)

/-- A byte that carries no mirror flag: character data, or an instruction byte that is neither a display-control byte nor
an entry-mode byte (R19, R61). -/
def modeless (rs : Bool) (b : Byte) : Prop := rs = true ∨ (b &&& 0xF8#8 ≠ 0x08#8 ∧ b &&& 0xFC#8 ≠ 0x04#8)

theorem modeless_shiftByte (sc rl : Bool) : modeless false (shiftByte sc rl) := by
  cases sc <;> cases rl <;> exact .inr (by decide)

theorem modeless_fsetByte (dl n f : Bool) : modeless false (fsetByte dl n f) := by
  cases dl <;> cases n <;> cases f <;> exact .inr (by decide)

theorem modeless_sddraByte (address : BitVec 7) : modeless false (sddraByte address) := by
  refine .inr ?_
  revert address
  decide

theorem ByteTrace.single {cfg : Cfg} {P : Bool → Byte → Prop} {rs : Bool} {b : Byte} (h : P rs b) :
    ByteTrace cfg P (transferByte cfg rs false b) := by
  simpa using ByteTrace.byte (cfg := cfg) rs b h .nil

theorem ByteTrace.mono {cfg : Cfg} {P Q : Bool → Byte → Prop} {t : List Beat} (h : ByteTrace cfg P t)
    (pq : ∀ rs b, P rs b → Q rs b) : ByteTrace cfg Q t := by
  induction h with
  | nil => exact .nil
  | byte rs b ok _ ih => exact .byte rs b (pq rs b ok) ih
  | delay d _ ih => exact .delay d ih

theorem ByteTrace.append {cfg : Cfg} {P : Bool → Byte → Prop} {t u : List Beat} (ht : ByteTrace cfg P t)
    (hu : ByteTrace cfg P u) : ByteTrace cfg P (t ++ u) := by
  induction ht with
  | nil => simpa using hu
  | byte rs b ok _ ih => simpa [List.append_assoc] using ByteTrace.byte rs b ok ih
  | delay d _ ih => simpa using ih.delay d

theorem ByteTrace.flatten {cfg : Cfg} {P : Bool → Byte → Prop} {ts : List (List Beat)}
    (h : ∀ t ∈ ts, ByteTrace cfg P t) : ByteTrace cfg P ts.flatten := by
  induction ts with
  | nil => exact .nil
  | cons t rest ih =>
    simpa using (h t (by simp)).append (ih fun u hu => h u (by simp [hu]))

theorem ByteTrace.character (cfg : Cfg) (c : StrChar) : ByteTrace cfg modeless (characterTrace cfg c) := by
  cases h : kindSends c.kind
  · simpa [characterTrace, h] using ByteTrace.nil
  · simpa [characterTrace, h] using ByteTrace.single (P := modeless) (rs := true) (.inl rfl)

theorem ByteTrace.shiftStep (cfg : Cfg) (sc rl : Bool) (delay : Nat) :
    ByteTrace cfg modeless (shiftStepTrace cfg sc rl delay) := by
  refine (ByteTrace.single (modeless_shiftByte sc rl)).append ?_
  by_cases h : 0 < delay
  · simpa [h] using ByteTrace.nil.delay delay
  · simpa [h] using ByteTrace.nil

/-! ## The arms -/

theorem exec_init (s : State) : exec .init s = s.accept State.beginInit fun s => .ok s.initSequence := rfl
theorem exec_dchr (kind : CharKind) (code : Byte) (s : State) :
    exec (.dchr kind code) s =
      s.accept State.noteLifecycle fun s => .ok (s.issue (characterTrace s.cfg { kind := kind, code := code })) := by
  simp only [← State.writeCharacter_eq_issue]; rfl
theorem exec_dstr (chars : List StrChar) (s : State) :
    exec (.dstr chars) s =
      s.accept State.noteLifecycle fun s => .ok (s.issue (chars.flatMap (characterTrace s.cfg))) := by
  simp only [← State.writeString_eq_issue]; rfl
theorem exec_clr (s : State) :
    exec .clr s = s.accept State.noteLifecycle fun s => .ok (s.issue (transferByte s.cfg false false clearByte)) := rfl
theorem exec_home (s : State) :
    exec .home s =
      s.accept State.noteLifecycle fun s => .ok (s.issue (transferByte s.cfg false false homeByteValue)) := rfl
theorem exec_scur (row column : Nat) (s : State) :
    exec (.scur row column) s = s.accept State.noteLifecycle (State.setCursor row column) := rfl
theorem exec_sdsp (on cursor blink : Bool) (s : State) :
    exec (.sdsp on cursor blink) s =
      s.accept State.noteLifecycle fun s => .ok (s.setDisplayControl on cursor blink) := rfl
theorem exec_sent (increment shift : Bool) (s : State) :
    exec (.sent increment shift) s = s.accept State.noteLifecycle fun s => .ok (s.setEntryMode increment shift) := rfl
theorem exec_blnk (on : Bool) (s : State) : exec (.blnk on) s = s.accept State.noteLifecycle (State.blink on) := rfl
theorem exec_curs (on : Bool) (s : State) : exec (.curs on) s = s.accept State.noteLifecycle (State.cursor on) := rfl
theorem exec_disp (on : Bool) (s : State) : exec (.disp on) s = s.accept State.noteLifecycle (State.display on) := rfl
theorem exec_scrl (count : Nat) (delay : Nat) (s : State) :
    exec (.scrl count delay) s = s.accept State.noteLifecycle fun s =>
      .ok (s.issue (List.replicate count (shiftStepTrace s.cfg true false delay)).flatten) := by
  simp only [← State.shiftRepeat_eq_issue]; rfl
theorem exec_scrr (count : Nat) (delay : Nat) (s : State) :
    exec (.scrr count delay) s = s.accept State.noteLifecycle fun s =>
      .ok (s.issue (List.replicate count (shiftStepTrace s.cfg true true delay)).flatten) := by
  simp only [← State.shiftRepeat_eq_issue]; rfl
theorem exec_curl (count : Nat) (delay : Nat) (s : State) :
    exec (.curl count delay) s = s.accept State.noteLifecycle fun s =>
      .ok (s.issue (List.replicate count (shiftStepTrace s.cfg false false delay)).flatten) := by
  simp only [← State.shiftRepeat_eq_issue]; rfl
theorem exec_curr (count : Nat) (delay : Nat) (s : State) :
    exec (.curr count delay) s = s.accept State.noteLifecycle fun s =>
      .ok (s.issue (List.replicate count (shiftStepTrace s.cfg false true delay)).flatten) := by
  simp only [← State.shiftRepeat_eq_issue]; rfl
theorem exec_strw (kind : CharKind) (code : Byte) (s : State) :
    exec (.strw kind code) s = .next (s.issue (characterTrace s.cfg { kind := kind, code := code })) := by
  rw [← State.writeCharacter_eq_issue]; rfl
theorem exec_clear (s : State) : exec .clear s = .next (s.issue (transferByte s.cfg false false clearByte)) := rfl
theorem exec_homeByte (s : State) :
    exec .homeByte s = .next (s.issue (transferByte s.cfg false false homeByteValue)) := rfl
theorem exec_entry (id shift : Bool) (s : State) : exec (.entry id shift) s = .next (s.setEntryMode id shift) := rfl
theorem exec_dctrl (d c b : Bool) (s : State) : exec (.dctrl d c b) s = .next (s.setDisplayControl d c b) := rfl
theorem exec_shift (sc rl : Bool) (s : State) :
    exec (.shift sc rl) s = .next (s.issue (transferByte s.cfg false false (shiftByte sc rl))) := rfl
theorem exec_fset (dl n f : Bool) (s : State) :
    exec (.fset dl n f) s = .next (s.issue (transferByte s.cfg false false (fsetByte dl n f))) := rfl
theorem exec_sddra (address : BitVec 7) (s : State) :
    exec (.sddra address) s = .next (s.issue (transferByte s.cfg false false (sddraByte address))) := rfl
theorem exec_data (code : Byte) (s : State) :
    exec (.data code) s = .next (s.issue (transferByte s.cfg true false code)) := rfl
theorem exec_wake (s : State) : exec .wake s = .next s.sendWake := rfl
theorem exec_set4 (s : State) : exec .set4 s = .next s.sendSet4 := rfl

/-! ## The raw nibbles -/

/-- The trace of `WAKE` in a state (R121). -/
def wakeTrace (s : State) : List Beat :=
  match s.cfg.busw with
  | .fourBit => rawTransfer4 s.cfg wakeNibble s.wakeDelay .none
  | .eightBit => []

/-- The trace of `SET4` in a configuration (R122). -/
def set4Trace (cfg : Cfg) : List Beat :=
  match cfg.busw with
  | .fourBit => rawTransfer4 cfg set4Nibble cfg.tSettle .framed
  | .eightBit => []

theorem State.sendWake_eq_issue (s : State) : s.sendWake = s.issue (wakeTrace s) := by
  cases h : s.cfg.busw <;> simp [State.sendWake, wakeTrace, h, State.issue_nil]

theorem State.sendSet4_eq_issue (s : State) : s.sendSet4 = s.issue (set4Trace s.cfg) := by
  cases h : s.cfg.busw <;> simp [State.sendSet4, set4Trace, h, State.issue_nil]

/-- Steps 1 and 2 of `INIT` as one trace (R121, R122). -/
def initPrefix (cfg : Cfg) : List Beat :=
  match cfg.busw with
  | .fourBit =>
    rawTransfer4 cfg wakeNibble cfg.tInit1 .none ++
    (rawTransfer4 cfg wakeNibble (min cfg.tInit23 cfg.tSettle) .none ++
    (rawTransfer4 cfg wakeNibble (min cfg.tInit23 cfg.tSettle) .none ++
      rawTransfer4 cfg set4Nibble cfg.tSettle .framed))
  | .eightBit => []

/-- Steps 3 to 6 of `INIT` as one trace (R123 to R126). -/
def initBytes (cfg : Cfg) : List Beat :=
  transferByte cfg false false (functionSetImage cfg) ++
  (transferByte cfg false false (entryByte true false) ++
  (transferByte cfg false false clearByte ++ transferByte cfg false false (dctrlByte true true false)))

/-- The mirror after `INIT` (R20). -/
def initMirror : Mirror := { d := some true, c := some true, b := some false, id := some true, s := some false }

theorem ByteTrace.ofInit (cfg : Cfg) : ByteTrace cfg (fun _ _ => True) (initBytes cfg) :=
  .byte _ _ trivial (.byte _ _ trivial (.byte _ _ trivial (.single trivial)))

/-- The six steps of `INIT` from an idle sequencer: one trace, and the five mirror flags (R120). -/
theorem State.initSequence_eq (s : State) (idle : s.seq = .idle) :
    s.initSequence =
      (s.setMirror initMirror).setSeq (.busy (initPrefix s.cfg ++ initBytes s.cfg) 0) := by
  have ne : ∀ b t, Seq.idle.append (transferByte s.cfg false false b ++ t) =
      .busy (transferByte s.cfg false false b ++ t) 0 := fun b t =>
    Seq.append_idle_of_ne_nil (by simp [transferByte_ne_nil])
  cases h : s.cfg.busw
  · have raw : ∀ n d m, Seq.idle.append (rawTransfer4 s.cfg n d m) = .busy (rawTransfer4 s.cfg n d m) 0 :=
      fun n d m => Seq.append_idle_of_ne_nil (by simp [rawTransfer4, pulse])
    simp [State.initSequence, State.sendWake, State.sendSet4, State.wakeDelay, h, idle, initPrefix, initBytes,
      State.issue, State.setSeq, State.setMirror, State.setEntryMode, State.setDisplayControl, initMirror, raw, Mirror.setEntry, Mirror.setDisplay]
  · simp [State.initSequence, State.sendWake, State.sendSet4, h, idle, initPrefix, initBytes,
      State.issue, State.setSeq, State.setMirror, State.setEntryMode, State.setDisplayControl, initMirror, Mirror.setEntry, Mirror.setDisplay]

/-! ## Everything an instruction can do -/

/-- How an operation changes the mirror, and the bytes that say so: nothing, the entry-mode flags with an entry-mode
byte last, the display flags with a display-control byte last (R19, R28).  Nothing changes without such a byte. -/
inductive MirrorChange (cfg : Cfg) (m : Mirror) : Mirror → List Beat → Prop where
  | none {t : List Beat} : ByteTrace cfg modeless t → MirrorChange cfg m m t
  | entry (id s : Bool) : MirrorChange cfg m (m.setEntry id s) (transferByte cfg false false (entryByte id s))
  | display (d c b : Bool) : MirrorChange cfg m (m.setDisplay d c b) (transferByte cfg false false (dctrlByte d c b))

theorem MirrorChange.byteTrace {cfg : Cfg} {m m' : Mirror} {t : List Beat} (h : MirrorChange cfg m m' t) :
    ByteTrace cfg (fun _ _ => True) t := by
  cases h with
  | none h => exact h.mono fun _ _ _ => trivial
  | entry => exact .single trivial
  | display => exact .single trivial

/-- Everything a request other than `INIT` can do: wait; be performed, with a trace of whole bytes and the mirror
change it says; be refused (R141, R176, R28). -/
theorem request_cases {i : Instr} {s : State} {r : Result} (hi : isRequest i = true) (hn : i ≠ .init)
    (h : exec i s = r) :
    (s.seq ≠ .idle ∧ r = .next s) ∨
    (s.seq = .idle ∧ ∃ m t, MirrorChange s.cfg s.mirror m t ∧
      r = .next ((s.noteLifecycle.setMirror m).setSeq (Seq.idle.append t))) ∨
    (s.seq = .idle ∧ ∃ code, r = .next (s.noteLifecycle.refuse code)) := by
  by_cases hq : s.seq = .idle
  swap
  · refine .inl ⟨hq, ?_⟩
    obtain ⟨ev, k, hq⟩ : ∃ ev k, s.seq = .busy ev k := by
      cases h : s.seq with
      | idle => exact absurd h hq
      | busy ev k => exact ⟨ev, k, rfl⟩
    subst h
    cases i <;> simp [isRequest] at hi <;> first | contradiction | skip
    all_goals first
      | rw [exec_dchr] | rw [exec_dstr] | rw [exec_clr] | rw [exec_home] | rw [exec_scur] | rw [exec_sdsp]
      | rw [exec_sent] | rw [exec_blnk] | rw [exec_curs] | rw [exec_disp] | rw [exec_scrl] | rw [exec_scrr]
      | rw [exec_curl] | rw [exec_curr]
    all_goals exact State.accept_busy hq
  refine .inr ?_
  have performed : ∀ {t : List Beat}, ByteTrace s.cfg modeless t →
      r = .next ((s.noteLifecycle).issue t) → (s.seq = .idle ∧ ∃ m t, MirrorChange s.cfg s.mirror m t ∧
        r = .next ((s.noteLifecycle.setMirror m).setSeq (Seq.idle.append t))) := by
    rintro t ht rfl
    exact ⟨hq, s.mirror, t, .none ht, by simp [State.issue, State.setSeq, State.setMirror, hq, State.noteLifecycle]⟩
  have display : ∀ d c b, r = .next (s.noteLifecycle.setDisplayControl d c b) →
      (s.seq = .idle ∧ ∃ m t, MirrorChange s.cfg s.mirror m t ∧
        r = .next ((s.noteLifecycle.setMirror m).setSeq (Seq.idle.append t))) := by
    rintro d c b rfl
    exact ⟨hq, _, _, .display d c b, by
      simp [State.setDisplayControl, State.issue, State.setSeq, State.setMirror, hq, State.noteLifecycle]⟩
  cases i with
  | init => contradiction
  | dchr kind code =>
    rw [exec_dchr, State.accept_always hq] at h
    exact .inl (performed (ByteTrace.character _ _) h.symm)
  | dstr chars =>
    rw [exec_dstr, State.accept_always hq] at h
    refine .inl (performed (t := chars.flatMap (characterTrace s.cfg)) ?_ h.symm)
    rw [List.flatMap_def]
    refine ByteTrace.flatten fun t ht => ?_
    obtain ⟨c, -, rfl⟩ := List.mem_map.mp ht
    exact ByteTrace.character _ _
  | clr =>
    rw [exec_clr, State.accept_always hq] at h
    exact .inl (performed (ByteTrace.single (.inr (by decide))) h.symm)
  | home =>
    rw [exec_home, State.accept_always hq] at h
    exact .inl (performed (ByteTrace.single (.inr (by decide))) h.symm)
  | scur row column =>
    rw [exec_scur] at h
    cases ha : computeDDRAMAddress s.cfg.rows row column with
    | none =>
      rw [State.accept_error hq (code := .outOfDomain) (by simp [State.setCursor, ha])] at h
      exact .inr ⟨hq, _, h.symm⟩
    | some address =>
      rw [State.accept_ok hq (t := s.noteLifecycle.setDDRAMAddress (BitVec.ofNat 7 address))
        (by simp [State.setCursor, ha])] at h
      exact .inl (performed (ByteTrace.single (modeless_sddraByte _)) h.symm)
  | sdsp on cursor blink =>
    rw [exec_sdsp, State.accept_always hq] at h
    exact .inl (display _ _ _ h.symm)
  | sent increment shift =>
    rw [exec_sent, State.accept_always hq] at h
    refine .inl ⟨hq, _, _, .entry increment shift, ?_⟩
    simp [← h, State.setEntryMode, State.issue, State.setSeq, State.setMirror, hq, State.noteLifecycle]
  | blnk on =>
    rw [exec_blnk] at h
    cases hd : s.mirror.d <;> cases hc : s.mirror.c
    case some.some d c =>
      rw [State.accept_ok hq (t := s.noteLifecycle.setDisplayControl d c on) (by simp [State.blink, hd, hc])] at h
      exact .inl (display _ _ _ h.symm)
    all_goals
      rw [State.accept_error hq (code := .mirrorUnwritten) (by simp [State.blink, hd, hc])] at h
      exact .inr ⟨hq, _, h.symm⟩
  | curs on =>
    rw [exec_curs] at h
    cases hd : s.mirror.d <;> cases hb : s.mirror.b
    case some.some d b =>
      rw [State.accept_ok hq (t := s.noteLifecycle.setDisplayControl d on b) (by simp [State.cursor, hd, hb])] at h
      exact .inl (display _ _ _ h.symm)
    all_goals
      rw [State.accept_error hq (code := .mirrorUnwritten) (by simp [State.cursor, hd, hb])] at h
      exact .inr ⟨hq, _, h.symm⟩
  | disp on =>
    rw [exec_disp] at h
    cases hc : s.mirror.c <;> cases hb : s.mirror.b
    case some.some c b =>
      rw [State.accept_ok hq (t := s.noteLifecycle.setDisplayControl on c b) (by simp [State.display, hc, hb])] at h
      exact .inl (display _ _ _ h.symm)
    all_goals
      rw [State.accept_error hq (code := .mirrorUnwritten) (by simp [State.display, hc, hb])] at h
      exact .inr ⟨hq, _, h.symm⟩
  | scrl count delay =>
    rw [exec_scrl, State.accept_always hq] at h
    refine .inl (performed (ByteTrace.flatten fun t ht => ?_) h.symm)
    exact (List.mem_replicate.mp ht).2 ▸ ByteTrace.shiftStep _ _ _ _
  | scrr count delay =>
    rw [exec_scrr, State.accept_always hq] at h
    refine .inl (performed (ByteTrace.flatten fun t ht => ?_) h.symm)
    exact (List.mem_replicate.mp ht).2 ▸ ByteTrace.shiftStep _ _ _ _
  | curl count delay =>
    rw [exec_curl, State.accept_always hq] at h
    refine .inl (performed (ByteTrace.flatten fun t ht => ?_) h.symm)
    exact (List.mem_replicate.mp ht).2 ▸ ByteTrace.shiftStep _ _ _ _
  | curr count delay =>
    rw [exec_curr, State.accept_always hq] at h
    refine .inl (performed (ByteTrace.flatten fun t ht => ?_) h.symm)
    exact (List.mem_replicate.mp ht).2 ▸ ByteTrace.shiftStep _ _ _ _
  | strw _ _ => simp [isRequest] at hi
  | clear => simp [isRequest] at hi
  | homeByte => simp [isRequest] at hi
  | entry _ _ => simp [isRequest] at hi
  | dctrl _ _ _ => simp [isRequest] at hi
  | shift _ _ => simp [isRequest] at hi
  | fset _ _ _ => simp [isRequest] at hi
  | sddra _ => simp [isRequest] at hi
  | data _ => simp [isRequest] at hi
  | wake => simp [isRequest] at hi
  | set4 => simp [isRequest] at hi

/-- Everything `INIT` can do: wait, or be performed (R120, R141). -/
theorem init_cases {s : State} {r : Result} (h : exec .init s = r) :
    (s.seq ≠ .idle ∧ r = .next s) ∨
    (s.seq = .idle ∧
      r = .next ((s.beginInit.setMirror initMirror).setSeq (.busy (initPrefix s.cfg ++ initBytes s.cfg) 0))) := by
  cases hq : s.seq with
  | busy events i =>
    rw [exec_init, State.accept_busy hq] at h
    exact .inl ⟨by simp, h.symm⟩
  | idle =>
    rw [exec_init, State.accept_always (f := State.initSequence) hq, State.initSequence_eq _ (by simpa using hq)] at h
    exact .inr ⟨rfl, h.symm⟩

/-- Everything a row below the request level can do: a trace of whole bytes with the mirror change it says, or one raw
nibble (R100, R121, R122). -/
theorem encoderRow_cases {i : Instr} {s : State} {r : Result} (hi : isRequest i = false) (h : exec i s = r) :
    (∃ m t, MirrorChange s.cfg s.mirror m t ∧ r = .next ((s.setMirror m).issue t)) ∨
    (i = .wake ∧ r = .next (s.issue (wakeTrace s))) ∨
    (i = .set4 ∧ r = .next (s.issue (set4Trace s.cfg))) := by
  subst h
  cases i <;> simp [isRequest] at hi
  case strw kind code => exact .inl ⟨_, _, .none (ByteTrace.character _ ⟨kind, code⟩), exec_strw kind code s⟩
  case clear => exact .inl ⟨_, _, .none (ByteTrace.single (.inr (by decide))), exec_clear s⟩
  case homeByte => exact .inl ⟨_, _, .none (ByteTrace.single (.inr (by decide))), exec_homeByte s⟩
  case entry id shift => exact .inl ⟨_, _, .entry id shift, rfl⟩
  case dctrl d c b => exact .inl ⟨_, _, .display d c b, rfl⟩
  case shift sc rl => exact .inl ⟨_, _, .none (ByteTrace.single (modeless_shiftByte _ _)), exec_shift sc rl s⟩
  case fset dl n f => exact .inl ⟨_, _, .none (ByteTrace.single (modeless_fsetByte _ _ _)), exec_fset dl n f s⟩
  case sddra address => exact .inl ⟨_, _, .none (ByteTrace.single (modeless_sddraByte _)), exec_sddra address s⟩
  case data code => exact .inl ⟨_, _, .none (ByteTrace.single (.inl rfl)), exec_data code s⟩
  case wake => exact .inr (.inl ⟨rfl, by rw [exec_wake, State.sendWake_eq_issue]⟩)
  case set4 => exact .inr (.inr ⟨rfl, by rw [exec_set4, State.sendSet4_eq_issue]⟩)

end Sys2Proof.Machine
end

