-- ==== Sys2Proof/Laws/PerInstr.lean ====
section
/-!
SUPPORT. Statements about every instruction as syntax, one lemma per constructor.  `RowFits`: the first word of an
instruction's encoding has the fixed bits of the instruction's own row of the opcode table.
-/

namespace Sys2Proof.Laws.RowFits

/-- The mask and match of an instruction's row (`spec/30_encoding.md` R61, R64, R65, R69, R71). -/
def row : Instr → Nat × Nat
  | .init => (0xFFFFFFFF, 0x00000000)
  | .dchr _ _ => (0xFFFFFC00, 0x10000000)
  | .dstr _ => (0xF000FFFF, 0x20000000)
  | .clr => (0xFFFFFFFF, 0x30000000)
  | .home => (0xFFFFFFFF, 0x40000000)
  | .scur _ _ => (0xF0000000, 0x50000000)
  | .sdsp _ _ _ => (0xFFFFFFF8, 0x60000000)
  | .sent _ _ => (0xFFFFFFFC, 0x70000000)
  | .blnk _ => (0xFFFFFFFE, 0x80000000)
  | .curs _ => (0xFFFFFFFE, 0x90000000)
  | .disp _ => (0xFFFFFFFE, 0xA0000000)
  | .scrl _ _ => (0xF0000000, 0xB0000000)
  | .scrr _ _ => (0xF0000000, 0xC0000000)
  | .curl _ _ => (0xF0000000, 0xD0000000)
  | .curr _ _ => (0xF0000000, 0xE0000000)
  | .strw _ _ => (0xFFFFFC00, 0x00000000)
  | .clear => (0xFF, 0x01)
  | .homeByte => (0xFF, 0x02)
  | .entry _ _ => (0xFC, 0x04)
  | .dctrl _ _ _ => (0xF8, 0x08)
  | .shift _ _ => (0xF3, 0x10)
  | .fset _ _ _ => (0xE3, 0x20)
  | .sddra _ => (0x80, 0x80)
  | .data _ => (0x00, 0x00)
  | .wake => (0xF, 0x3)
  | .set4 => (0xF, 0x2)

/-- The first word of what is presented has the fixed bits of a row. -/
def fits (p : Presented) (mask pattern : Nat) : Prop :=
  match p with
  | .request [] => False
  | .request (w :: _) => w &&& BitVec.ofNat 32 mask = BitVec.ofNat 32 pattern
  | .device (.strw w) => w &&& BitVec.ofNat 32 mask = BitVec.ofNat 32 pattern
  | .device (.ir8 b) => b &&& BitVec.ofNat 8 mask = BitVec.ofNat 8 pattern
  | .device (.dr8 b) => b &&& BitVec.ofNat 8 mask = BitVec.ofNat 8 pattern
  | .device (.raw4 n) => n &&& BitVec.ofNat 4 mask = BitVec.ofNat 4 pattern

/-- An instruction's encoding fits its own row. -/
def Statement (i : Instr) : Prop := fits (encode i) (row i).1 (row i).2

theorem init : Statement .init := rfl
theorem dchr (kind : CharKind) (code : Byte) : Statement (.dchr kind code) := character_and (kindBits kind) code
theorem dstr (chars : List StrChar) : Statement (.dstr chars) := by
  have : ∀ a : BitVec 12, requestWord 0x2#4 a 0#16 &&& 0xF000FFFF#32 = 0x20000000#32 := fun a => by
    rw [show (0xF000FFFF#32 : Word) = requestWord 0xF#4 0#12 0xFFFF#16 from rfl, requestWord_and, BitVec.and_zero]
    rfl
  exact this _
theorem clr : Statement .clr := rfl
theorem home : Statement .home := rfl
theorem scur (r c : Nat) : Statement (.scur r c) := by
  show requestWord 0x5#4 _ _ &&& 0xF0000000#32 = 0x50000000#32
  rw [requestWord_and_op]
  rfl
theorem sdsp (x y z : Bool) : Statement (.sdsp x y z) := by cases x <;> cases y <;> cases z <;> rfl
theorem sent (x y : Bool) : Statement (.sent x y) := by cases x <;> cases y <;> rfl
theorem blnk (x : Bool) : Statement (.blnk x) := by cases x <;> rfl
theorem curs (x : Bool) : Statement (.curs x) := by cases x <;> rfl
theorem disp (x : Bool) : Statement (.disp x) := by cases x <;> rfl
theorem scrl (n d : Nat) : Statement (.scrl n d) := by
  show requestWord 0xB#4 _ _ &&& 0xF0000000#32 = 0xB0000000#32
  rw [requestWord_and_op]
  rfl
theorem scrr (n d : Nat) : Statement (.scrr n d) := by
  show requestWord 0xC#4 _ _ &&& 0xF0000000#32 = 0xC0000000#32
  rw [requestWord_and_op]
  rfl
theorem curl (n d : Nat) : Statement (.curl n d) := by
  show requestWord 0xD#4 _ _ &&& 0xF0000000#32 = 0xD0000000#32
  rw [requestWord_and_op]
  rfl
theorem curr (n d : Nat) : Statement (.curr n d) := by
  show requestWord 0xE#4 _ _ &&& 0xF0000000#32 = 0xE0000000#32
  rw [requestWord_and_op]
  rfl
theorem strw (kind : CharKind) (code : Byte) : Statement (.strw kind code) := strWord_and ⟨kind, code⟩
theorem clear : Statement .clear := rfl
theorem homeByte : Statement .homeByte := rfl
theorem entry (x y : Bool) : Statement (.entry x y) := by cases x <;> cases y <;> rfl
theorem dctrl (x y z : Bool) : Statement (.dctrl x y z) := by cases x <;> cases y <;> cases z <;> rfl
theorem shift (x y : Bool) : Statement (.shift x y) := by cases x <;> cases y <;> rfl
theorem fset (x y z : Bool) : Statement (.fset x y z) := by cases x <;> cases y <;> cases z <;> rfl
theorem sddra (address : BitVec 7) : Statement (.sddra address) := by
  show sddraByte address &&& 0x80#8 = 0x80#8
  revert address
  decide
theorem data (code : Byte) : Statement (.data code) := BitVec.and_zero
theorem wake : Statement .wake := rfl
theorem set4 : Statement .set4 := rfl

end Sys2Proof.Laws.RowFits
end

