-- ==== Sys2Proof/Laws/Trace.lean ====
section
/-!
SUPPORT. What a trace does when it is emitted, said once for the shape all transfers share and then for a trace made of
whole bytes and delays: the outputs, the nibble phase, the levels of the lines, the roles it drives, and how a reader of
the bus takes it.
-/

namespace Sys2Proof.Machine

/-! ## Emitting a whole trace -/

theorem emitAll_out (t : List Beat) (s : State) :
    (t.foldl (fun u beat => u.emit beat) s).out = s.out ++ t.map Beat.event := by
  induction t generalizing s with
  | nil => simp
  | cons b rest ih => simp [ih]

theorem emitAll_latches (t : List Beat) (s : State) :
    (t.foldl (fun u beat => u.emit beat) s).latches = (t.map Beat.event).foldl Latches.drive s.latches := by
  induction t generalizing s with
  | nil => rfl
  | cons b rest ih => simp [ih]

/-- What emitting leaves alone: everything but the outputs and the nibble phase. -/
theorem emitAll_frame (t : List Beat) (s : State) :
    let u := t.foldl (fun u beat => u.emit beat) s
    u = { s with out := u.out, latches := u.latches, nph := u.nph } := by
  induction t generalizing s with
  | nil => rfl
  | cons b rest ih => exact (ih (s.emit b)).trans rfl

theorem emitAll_lc (t : List Beat) (s : State) : (t.foldl (fun u beat => u.emit beat) s).lc = s.lc := by
  rw [emitAll_frame]

theorem emitAll_devResetSeen (t : List Beat) (s : State) :
    (t.foldl (fun u beat => u.emit beat) s).devResetSeen = s.devResetSeen := by
  rw [emitAll_frame]

/-- The nibble phase after a trace depends on the phase before it, `LC` and the watch for a device reset alone. -/
theorem emitAll_nph_congr (t : List Beat) {s u : State} (nph : s.nph = u.nph) (lc : s.lc = u.lc)
    (seen : s.devResetSeen = u.devResetSeen) :
    (t.foldl (fun v beat => v.emit beat) s).nph = (t.foldl (fun v beat => v.emit beat) u).nph := by
  induction t generalizing s u with
  | nil => exact nph
  | cons b rest ih =>
    refine ih (s := s.emit b) (u := u.emit b) ?_ lc seen
    cases hb : b.mark <;> simp [State.emit, State.phaseAfter, hb, nph, lc, seen]

/-- A step of the machine is the first step of a run. -/
theorem core_run_succ {n : Nat} {s t : State} (h : step s = .next t) :
    Sys2Proof.core.run (n + 1) s = Sys2Proof.core.run n t := by
  have e := Host.Core.run.eq_2 Sys2Proof.core s n
  have h' : Sys2Proof.core.step s = Host.Outcome.next t := h
  rw [h'] at e
  exact e

/-! ## One pulse -/

/-- The data lines of a pulse mean nothing for the nibble phase. -/
theorem emitAll_lines_nph (lines : List (Fin 8 × Bool)) (s : State) :
    ((lines.map fun line => plain (.pin (.d line.1) line.2)).foldl (fun u beat => u.emit beat) s).nph = s.nph := by
  induction lines generalizing s with
  | nil => rfl
  | cons a rest ih => simp only [List.map_cons, List.foldl_cons, ih]; rfl

/-- The nibble phase after a pulse: what the falling edge makes of it, then what the end of the delay makes of it. -/
theorem emitAll_pulse_nph (cfg : Cfg) (rs rw : Bool) (lines : List (Fin 8 × Bool)) (d : Nat) (fall settle : PhaseMark)
    (s : State) :
    ((pulse cfg rs rw lines d fall settle).foldl (fun u beat => u.emit beat) s).nph =
      ({ s with nph := s.phaseAfter fall } : State).phaseAfter settle := by
  have key : ∀ u : State, u.lc = s.lc → u.devResetSeen = s.devResetSeen → u.nph = s.nph →
      (List.foldl (fun (u : State) (beat : Beat) => u.emit beat) u
        (lines.map (fun line => plain (.pin (.d line.1) line.2)) ++
          [{ event := .pin .e false, mark := fall }, { event := .sleep d, mark := settle }])).nph = ({ s with nph := s.phaseAfter fall } : State).phaseAfter settle := by
    intro u lc seen nph
    rw [List.foldl_append]
    have hn := emitAll_lines_nph lines u
    have hl := emitAll_lc (lines.map fun line => plain (.pin (.d line.1) line.2)) u
    have hd := emitAll_devResetSeen (lines.map fun line => plain (.pin (.d line.1) line.2)) u
    revert hn hl hd
    generalize List.foldl _ u _ = v
    intro hn hl hd
    cases fall <;> cases settle <;> simp [State.phaseAfter, hn, hl, hd, lc, seen, nph]
  cases h : cfg.rwWired <;>
    simp only [pulse, h, if_true, if_false, Bool.false_eq_true, List.nil_append, List.cons_append, List.foldl_cons] <;>
    exact key _ rfl rfl rfl

/-- The events of a pulse are allowed when its data lines are wired and `RW` is driven low (R41). -/
theorem pulse_allowed {cfg : Cfg} {rs : Bool} {lines : List (Fin 8 × Bool)} {d : Nat} {fall settle : PhaseMark}
    (wired : ∀ line ∈ lines, Role.d line.1 ∈ dataRoles cfg.busw) :
    ∀ e ∈ (pulse cfg rs false lines d fall settle).map Beat.event, allowedEvent cfg e := by
  intro e he
  simp only [pulse, List.map_cons, List.map_append, List.map_map, List.mem_cons, List.mem_append, List.mem_map,
    Function.comp_apply, plain] at he
  rcases he with rfl | ⟨b, hb, rfl⟩ | rfl | ⟨line, hline, rfl⟩ | rfl | rfl | he
  · exact ⟨by simp [rolesOf, wiredRoles], by simp⟩
  · cases h : cfg.rwWired <;> simp [h] at hb
    subst hb
    exact ⟨by simp [rolesOf, wiredRoles, h], by simp⟩
  · exact ⟨by simp [rolesOf, wiredRoles], by simp⟩
  · exact ⟨by simp [rolesOf, wiredRoles, wired line hline], by simp⟩
  · exact ⟨by simp [rolesOf, wiredRoles], by simp⟩
  · trivial
  · simp at he

/-- `E` is low at the end of a pulse (R94). -/
theorem pulse_enable (cfg : Cfg) (rs rw : Bool) (lines : List (Fin 8 × Bool)) (d : Nat) (fall settle : PhaseMark)
    (l : Latches) :
    (((pulse cfg rs rw lines d fall settle).map Beat.event).foldl Latches.drive l).e = some false := by
  have key : ∀ (t : List Beat) (l : Latches),
      (((t ++ [Beat.mk (.pin .e false) fall, Beat.mk (.sleep d) settle]).map Beat.event).foldl Latches.drive l).e = some false := by
    intro t l
    simp [List.foldl_append, Latches.drive, Latches.write]
  have split : ∃ t, pulse cfg rs rw lines d fall settle = t ++ [Beat.mk (.pin .e false) fall, Beat.mk (.sleep d) settle] :=
    ⟨plain (.pin .rs rs) :: ((if cfg.rwWired then [plain (.pin .rw rw)] else []) ++
      plain (.pin .e true) :: lines.map fun line => plain (.pin (.d line.1) line.2)), by simp [pulse]⟩
  obtain ⟨t, h⟩ := split
  rw [h, key]

/-- A pulse is one pulse. -/
theorem pulse_count (cfg : Cfg) (rs rw : Bool) (lines : List (Fin 8 × Bool)) (d : Nat) (fall settle : PhaseMark) :
    pulseCount ((pulse cfg rs rw lines d fall settle).map Beat.event) = 1 := by
  have : ∀ l : List (Fin 8 × Bool),
      (l.map fun line => Event.pin (.d line.1) line.2).countP (fun e => decide (e = .pin .e false)) = 0 := by
    intro l
    simp [List.countP_eq_zero]
  cases h : cfg.rwWired <;>
    simp [pulse, pulseCount, h, plain, List.countP_append, Function.comp_def, this]

theorem sleepSum_append (t u : List Event) : sleepSum (t ++ u) = sleepSum t + sleepSum u := by
  induction t with
  | nil => simp [sleepSum]
  | cons e rest ih => cases e <;> simp [sleepSum, ih, Nat.add_assoc]

/-- A pulse blocks for its delay (R208). -/
theorem pulse_sleep (cfg : Cfg) (rs rw : Bool) (lines : List (Fin 8 × Bool)) (d : Nat) (fall settle : PhaseMark) :
    sleepSum ((pulse cfg rs rw lines d fall settle).map Beat.event) = d := by
  have : ∀ l : List (Fin 8 × Bool), sleepSum (l.map fun line => Event.pin (.d line.1) line.2) = 0 := by
    intro l
    induction l with
    | nil => rfl
    | cons a rest ih => simpa [sleepSum] using ih
  cases h : cfg.rwWired <;>
    simp [pulse, h, plain, sleepSum, sleepSum_append, Function.comp_def, this]

/-! ## The reader of the bus -/

theorem BusReader.readAll_append (busw : BusWidth) (r : BusReader) (t u : List Event) :
    r.readAll busw (t ++ u) = (r.readAll busw t).readAll busw u := by
  simp [BusReader.readAll]

@[simp] theorem BusReader.readAll_nil (busw : BusWidth) (r : BusReader) : r.readAll busw [] = r := rfl

/-- A delay is not seen on the lines. -/
@[simp] theorem BusReader.readAll_sleep (busw : BusWidth) (r : BusReader) (d : Nat) (t : List Event) :
    r.readAll busw (.sleep d :: t) = r.readAll busw t := rfl

/-- The lines in the middle of a pulse. -/
def pulseLatches (cfg : Cfg) (rs rw : Bool) (lines : List (Fin 8 × Bool)) (l : Latches) : Latches :=
  lines.foldl (fun m line => m.write (.d line.1) line.2)
    { l with rs := some rs, rw := if cfg.rwWired then some rw else l.rw, e := some true }

theorem BusReader.readAll_lines (busw : BusWidth) (lines : List (Fin 8 × Bool)) (r : BusReader) (t : List Event) :
    r.readAll busw (lines.map (fun line => Event.pin (.d line.1) line.2) ++ t) =
      ({ r with lines := lines.foldl (fun m line => m.write (.d line.1) line.2) r.lines } : BusReader).readAll busw t := by
  induction lines generalizing r with
  | nil => rfl
  | cons a rest ih =>
    rw [List.map_cons, List.cons_append]
    show (BusReader.read busw r _).readAll busw _ = _
    rw [ih]
    simp [BusReader.read, Latches.drive]

/-- A pulse latches what its lines carry. -/
theorem BusReader.readAll_pulse (cfg : Cfg) (rs rw : Bool) (lines : List (Fin 8 × Bool)) (d : Nat)
    (fall settle : PhaseMark) (r : BusReader) :
    r.readAll cfg.busw ((pulse cfg rs rw lines d fall settle).map Beat.event) =
      BusReader.latch cfg.busw { r with lines := (pulseLatches cfg rs rw lines r.lines).write .e false } := by
  have last : ∀ q : BusReader, q.readAll cfg.busw [.pin .e false, .sleep d] =
      BusReader.latch cfg.busw { q with lines := q.lines.write .e false } := by
    intro q
    cases h : cfg.busw <;> cases hq : q.half <;>
      simp [BusReader.readAll, BusReader.read, BusReader.latch, Latches.drive, hq]
  cases hw : cfg.rwWired <;>
    simp only [pulse, hw, List.map_cons, List.map_append, plain, List.map_map, if_true, Bool.false_eq_true, if_false,
      List.map_nil, List.nil_append, Function.comp_def]
  · show ((r.read cfg.busw _).read cfg.busw _).readAll cfg.busw _ = _
    rw [BusReader.readAll_lines, last]
    simp [BusReader.read, Latches.drive, Latches.write, pulseLatches, hw]
  · show (((r.read cfg.busw _).read cfg.busw _).read cfg.busw _).readAll cfg.busw _ = _
    rw [BusReader.readAll_lines, last]
    simp [BusReader.read, Latches.drive, Latches.write, pulseLatches, hw]

/-- The four lines carry the nibble (R42). -/
theorem pulseLatches_nibble (cfg : Cfg) (rs rw : Bool) (n : Nibble) (l : Latches) :
    ((pulseLatches cfg rs rw (nibbleLines n) l).write .e false).nibble = n := by
  have : ∀ n : Nibble, BitVec.ofBool (n.getLsbD 3) ++ BitVec.ofBool (n.getLsbD 2) ++ BitVec.ofBool (n.getLsbD 1) ++
      BitVec.ofBool (n.getLsbD 0) = n := by decide
  simpa [pulseLatches, nibbleLines, Latches.write, Latches.nibble, levelBit] using this n

/-- The eight lines carry the byte (R42). -/
theorem pulseLatches_byte (cfg : Cfg) (rs rw : Bool) (b : Byte) (l : Latches) :
    ((pulseLatches cfg rs rw (byteLines b) l).write .e false).byte = b := by
  have : ∀ b : Byte, BitVec.ofBool (b.getLsbD 7) ++ BitVec.ofBool (b.getLsbD 6) ++ BitVec.ofBool (b.getLsbD 5) ++
      BitVec.ofBool (b.getLsbD 4) ++ (BitVec.ofBool (b.getLsbD 3) ++ BitVec.ofBool (b.getLsbD 2) ++
      BitVec.ofBool (b.getLsbD 1) ++ BitVec.ofBool (b.getLsbD 0)) = b := by decide
  simpa [pulseLatches, byteLines, Latches.write, Latches.byte, levelBit] using this b

/-- `RS` carries the register select. -/
theorem pulseLatches_rs (cfg : Cfg) (rs rw : Bool) (lines : List (Fin 8 × Bool)) (l : Latches) :
    ((pulseLatches cfg rs rw lines l).write .e false).rs = some rs := by
  have : ∀ m : Latches, (lines.foldl (fun (m : Latches) (line : Fin 8 × Bool) => m.write (.d line.1) line.2) m).rs =
      m.rs := by
    induction lines with
    | nil => intro m; rfl
    | cons a rest ih => intro m; rw [List.foldl_cons, ih]; rfl
  exact this _

/-- The two halves of a byte make it (R92). -/
theorem highNibble_append_lowNibble (b : Byte) : highNibble b ++ lowNibble b = b := by
  revert b
  decide

/-! ## A byte, and a trace of bytes -/

theorem nibbleLines_wired {cfg : Cfg} (h : cfg.busw = .fourBit) (n : Nibble) :
    ∀ line ∈ nibbleLines n, Role.d line.1 ∈ dataRoles cfg.busw := by
  simp [nibbleLines, dataRoles, h]

theorem byteLines_wired {cfg : Cfg} (h : cfg.busw = .eightBit) (b : Byte) :
    ∀ line ∈ byteLines b, Role.d line.1 ∈ dataRoles cfg.busw := by
  simp [byteLines, dataRoles, h]

theorem transferByte_allowed (cfg : Cfg) (rs : Bool) (b : Byte) :
    ∀ e ∈ (transferByte cfg rs false b).map Beat.event, allowedEvent cfg e := by
  cases h : cfg.busw
  · simp only [transferByte, h, List.map_append, List.mem_append]
    rintro e (he | he)
    · exact pulse_allowed (nibbleLines_wired h _) e he
    · exact pulse_allowed (nibbleLines_wired h _) e he
  · simp only [transferByte, h]
    exact pulse_allowed (byteLines_wired h _)

theorem transferByte_enable (cfg : Cfg) (rs rw : Bool) (b : Byte) (l : Latches) :
    (((transferByte cfg rs rw b).map Beat.event).foldl Latches.drive l).e = some false := by
  cases h : cfg.busw
  · simp only [transferByte, h, List.map_append, List.foldl_append]
    exact pulse_enable _ _ _ _ _ _ _ _
  · simp only [transferByte, h]
    exact pulse_enable _ _ _ _ _ _ _ _

/-- A whole byte leaves the nibble phase as it was (R44). -/
theorem transferByte_nph (cfg : Cfg) (rs rw : Bool) (b : Byte) (s : State) :
    ((transferByte cfg rs rw b).foldl (fun u beat => u.emit beat) s).nph = s.nph := by
  cases h : cfg.busw
  · simp only [transferByte, h, List.foldl_append, transfer4]
    rw [emitAll_pulse_nph]
    simp only [State.phaseAfter]
    rw [emitAll_pulse_nph]
    cases hn : s.nph <;> simp [State.phaseAfter, hn]
  · simp only [transferByte, h, transfer8]
    rw [emitAll_pulse_nph]
    rfl

theorem transferByte_pulses (cfg : Cfg) (rs rw : Bool) (b : Byte) :
    pulseCount ((transferByte cfg rs rw b).map Beat.event) = if cfg.busw = .fourBit then 2 else 1 := by
  cases h : cfg.busw
  · simp only [transferByte, h, List.map_append, pulseCount, List.countP_append]
    have := fun n => pulse_count cfg rs rw (nibbleLines n) cfg.tSettle .half .none
    simp only [pulseCount] at this
    simp [transfer4, this]
  · simp [transferByte, h, transfer8, pulse_count]

theorem transferByte_sleep (cfg : Cfg) (rs rw : Bool) (b : Byte) :
    sleepSum ((transferByte cfg rs rw b).map Beat.event) =
      if cfg.busw = .fourBit then 2 * cfg.tSettle else cfg.tSettle := by
  cases h : cfg.busw
  · simp [transferByte, h, transfer4, sleepSum_append, pulse_sleep, Nat.two_mul]
  · simp [transferByte, h, transfer8, pulse_sleep]

theorem ByteTrace.allowed {cfg : Cfg} {P : Bool → Byte → Prop} {t : List Beat} (h : ByteTrace cfg P t) :
    ∀ e ∈ t.map Beat.event, allowedEvent cfg e := by
  induction h with
  | nil => simp
  | byte rs b _ _ ih =>
    simp only [List.map_append, List.mem_append]
    rintro e (he | he)
    · exact transferByte_allowed cfg rs b e he
    · exact ih e he
  | delay d _ ih =>
    simp only [List.map_cons, List.mem_cons]
    rintro e (rfl | he)
    · trivial
    · exact ih e he

theorem ByteTrace.enable {cfg : Cfg} {P : Bool → Byte → Prop} {t : List Beat} (h : ByteTrace cfg P t) (l : Latches) (low : l.e ≠ some true) :
    ((t.map Beat.event).foldl Latches.drive l).e ≠ some true := by
  induction h generalizing l with
  | nil => exact low
  | byte rs b _ _ ih =>
    rw [List.map_append, List.foldl_append]
    exact ih _ (by simp [transferByte_enable])
  | delay d _ ih => exact ih l low

theorem ByteTrace.nph {cfg : Cfg} {P : Bool → Byte → Prop} {t : List Beat} (h : ByteTrace cfg P t) (s : State) :
    (t.foldl (fun u beat => u.emit beat) s).nph = s.nph := by
  induction h generalizing s with
  | nil => rfl
  | byte rs b _ _ ih => rw [List.foldl_append, ih, transferByte_nph]
  | delay d _ ih => rw [List.foldl_cons, ih]; rfl

/-- In 4-bit operation a trace of bytes has an even number of pulses (R44). -/
theorem ByteTrace.pulses_even {cfg : Cfg} {P : Bool → Byte → Prop} {t : List Beat} (h : ByteTrace cfg P t) (four : cfg.busw = .fourBit) :
    pulseCount (t.map Beat.event) % 2 = 0 := by
  have append : ∀ a b : List Event, pulseCount (a ++ b) = pulseCount a + pulseCount b := by simp [pulseCount]
  induction h with
  | nil => rfl
  | byte rs b _ _ ih => rw [List.map_append, append, transferByte_pulses]; simp [four]; omega
  | delay d _ ih => exact ih

end Sys2Proof.Machine
end

