-- ==== Sys2Proof/Tests/Slice0.lean ====
section
/-!
SUPPORT. Tests.  Expected values are the spec's: the vectors V<n> and E<n> of `spec/95_test_vectors.md`, and words written
out from the layouts of `spec/30_encoding.md` R61 to R71.  Then one witness per statement with hypotheses.
-/

namespace Sys2Proof.Tests

open Sys2Proof.Machine

/-! ## Small states -/

/-- The mirror after `INIT` (R20). -/
def readyMirror : Mirror := { d := some true, c := some true, b := some false, id := some true, s := some false }

/-- The ready state (95_test_vectors.md section 0), 4-bit, 2 rows, `RW` wired. -/
def ready : State := { State.reset with lc := .ready, mirror := readyMirror, nph := .high }

/-- A state with an 8-bit bus and no `RW`. -/
def eightBit (s : State) : State := { s with cfg := { s.cfg with busw := .eightBit, rwWired := false } }

/-- A state with other rows. -/
def withRows (rows : Rows) (s : State) : State := { s with cfg := { s.cfg with rows := rows } }

/-- Two events, of which the first is the next. -/
def twoBeats : List Beat := [plain (.pin .e true), plain (.pin .e false)]

/-- A busy state with two events left. -/
def busy : State := { ready with seq := .busy twoBeats 0 }

/-- The next state satisfies a test. -/
def answers (r : Result) (p : State → Bool) : Bool :=
  match r with
  | .next t => p t
  | .fault _ => false
  | .refused _ => false

/-- The bytes, each with its `rs`, that an instruction sends. -/
def sends (i : Instr) (s : State) (bytes : List (Bool × Byte)) : Bool :=
  answers (exec i s) fun t => decide (bytesOf t.cfg.busw t.pending = bytes)

/-! ## Well-formedness refuses each ill-formed operand -/

theorem test_illFormed_dstr : (Instr.dstr (List.replicate 4096 { kind := .code, code := 0 })).wellFormed = false := by
  rw [Instr.wellFormed, List.length_replicate]
  decide
theorem test_illFormed_scur_row : (Instr.scur 4096 1).wellFormed = false := by decide
theorem test_illFormed_scur_column : (Instr.scur 1 65536).wellFormed = false := by decide
theorem test_illFormed_scrl_count : (Instr.scrl 4096 0).wellFormed = false := by decide
theorem test_illFormed_scrl_delay : (Instr.scrl 0 65536).wellFormed = false := by decide
theorem test_illFormed_scrr_count : (Instr.scrr 4096 0).wellFormed = false := by decide
theorem test_illFormed_scrr_delay : (Instr.scrr 0 65536).wellFormed = false := by decide
theorem test_illFormed_curl_count : (Instr.curl 4096 0).wellFormed = false := by decide
theorem test_illFormed_curl_delay : (Instr.curl 0 65536).wellFormed = false := by decide
theorem test_illFormed_curr_count : (Instr.curr 4096 0).wellFormed = false := by decide
theorem test_illFormed_curr_delay : (Instr.curr 0 65536).wellFormed = false := by decide

/-! ## Words written out from the layouts: `op` bits 31:28, `a` bits 27:16, `b` bits 15:0 (R67 to R69) -/

theorem test_decode_init : decode (.request [0b00000000000000000000000000000000#32]) = some .init := by decide
theorem test_decode_dchr :
    decode (.request [0b00010000000000000000000101000001#32]) = some (.dchr .char 0x41) := by decide
theorem test_decode_dstr :
    decode (.request [0b00100000000000100000000000000000#32, 0b00000000000000000000000101000001#32,
      0b00000000000000000000001000000000#32]) = some (.dstr [⟨.char, 0x41⟩, ⟨.other false, 0⟩]) := by decide
theorem test_decode_clr : decode (.request [0b00110000000000000000000000000000#32]) = some .clr := by decide
theorem test_decode_home : decode (.request [0b01000000000000000000000000000000#32]) = some .home := by decide
theorem test_decode_scur :
    decode (.request [0b01010000000000010000001111100111#32]) = some (.scur 1 999) := by decide
theorem test_decode_sdsp :
    decode (.request [0b01100000000000000000000000000101#32]) = some (.sdsp true false true) := by decide
theorem test_decode_sent :
    decode (.request [0b01110000000000000000000000000010#32]) = some (.sent true false) := by decide
theorem test_decode_blnk : decode (.request [0b10000000000000000000000000000001#32]) = some (.blnk true) := by decide
theorem test_decode_curs : decode (.request [0b10010000000000000000000000000000#32]) = some (.curs false) := by decide
theorem test_decode_disp : decode (.request [0b10100000000000000000000000000001#32]) = some (.disp true) := by decide
theorem test_decode_scrl :
    decode (.request [0b10110000000000100000000000000101#32]) = some (.scrl 2 5) := by decide
theorem test_decode_scrr :
    decode (.request [0b11000000000000000000000111110100#32]) = some (.scrr 0 500) := by decide
theorem test_decode_curl :
    decode (.request [0b11010000000000010000000000000000#32]) = some (.curl 1 0) := by decide
theorem test_decode_curr :
    decode (.request [0b11101111111111111111111111111111#32]) = some (.curr 4095 65535) := by decide
theorem test_decode_strw :
    decode (.device (.strw 0b00000000000000000000000001101001#32)) = some (.strw .code 0x69) := by decide
theorem test_decode_clear : decode (.device (.ir8 0b00000001#8)) = some .clear := by decide
theorem test_decode_homeByte : decode (.device (.ir8 0b00000010#8)) = some .homeByte := by decide
theorem test_decode_entry : decode (.device (.ir8 0b00000110#8)) = some (.entry true false) := by decide
theorem test_decode_dctrl : decode (.device (.ir8 0b00001101#8)) = some (.dctrl true false true) := by decide
theorem test_decode_shift : decode (.device (.ir8 0b00011000#8)) = some (.shift true false) := by decide
theorem test_decode_fset : decode (.device (.ir8 0b00101000#8)) = some (.fset false true false) := by decide
theorem test_decode_sddra : decode (.device (.ir8 0b11000000#8)) = some (.sddra 0x40) := by decide
theorem test_decode_data : decode (.device (.dr8 0b01000001#8)) = some (.data 0x41) := by decide
theorem test_decode_wake : decode (.device (.raw4 0b0011#4)) = some .wake := by decide
theorem test_decode_set4 : decode (.device (.raw4 0b0010#4)) = some .set4 := by decide

/-- Section 2.5: reserved words. -/
theorem test_decode_reserved :
    decodePort [0x00010000] = .reserved [] ∧ decodePort [0x00000001] = .reserved [] ∧
    decodePort [0x10000400] = .reserved [] ∧ decodePort [0x20000001] = .reserved [] ∧
    decodePort [0x60000008] = .reserved [] ∧ decodePort [0x70000004] = .reserved [] ∧
    decodePort [0x80000002] = .reserved [] ∧ decodePort [0xF0000000] = .reserved [] := by decide

/-- A byte the block never emits (R66): `FSET` with a low bit set, a set-CGRAM byte. -/
theorem test_decode_no_pattern :
    decode (.device (.ir8 0b00100001#8)) = none ∧ decode (.device (.ir8 0b01000000#8)) = none ∧
    decode (.device (.ir8 0b00000000#8)) = none ∧ decode (.device (.raw4 0b0001#4)) = none := by decide

/-! ## Encoding -/

theorem test_encode_words :
    encode (.scrr 0 500) = .request [0xC00001F4] ∧ encode (.sdsp false true false) = .request [0x60000002] ∧
    encode (.dstr [⟨.char, 0x48⟩, ⟨.other false, 0⟩, ⟨.code, 0x69⟩]) =
      .request [0x20030000, 0x00000148, 0x00000200, 0x00000069] := by decide

/-! ## Words of the opcode table -/

theorem test_table_request : decodeTableWord 32 0x500103E7 = some (.scur 1 999) := by decide
theorem test_table_string : decodeTableWord 32 0x20020000 =
    some (.dstr [⟨.code, 0⟩, ⟨.code, 0⟩]) := by decide
theorem test_table_strw : decodeTableWord 32 0x00000141 = some (.strw .char 0x41) := by decide
theorem test_table_bytes :
    decodeTableWord 8 0x01 = some .clear ∧ decodeTableWord 8 0x41 = some (.data 0x41) ∧
    decodeTableWord 8 0x03 = some .wake ∧ decodeTableWord 4 0x2 = some .set4 := by decide

/-- The step after reset runs the word it is given: `CLR`, accepted before `INIT`. -/
theorem test_step_request :
    answers (step (State.reset.withFetchWord 32 0x30000000)) (fun t =>
      decide (bytesOf .fourBit t.pending = [(false, 0x01)]) && t.violPreinit && t.port.isEmpty) = true := by decide
theorem test_step_device_word :
    answers (step (State.reset.withFetchWord 8 0x0F)) (fun t =>
      decide (bytesOf .fourBit t.pending = [(false, 0x0F)]) && decide (t.mirror.b = some true)) = true := by decide

/-! ## Transfers -/

/-- E4: `0b10110010` as `0b1011` then `0b0010`, `rs` 0, `RW` wired. -/
theorem test_transfer_E4 :
    (transferByte State.reset.cfg false false 0xB2).map Beat.event =
      [.pin .rs false, .pin .rw false, .pin .e true, .pin (.d 3) true, .pin (.d 2) false, .pin (.d 1) true,
       .pin (.d 0) true, .pin .e false, .sleep 10,
       .pin .rs false, .pin .rw false, .pin .e true, .pin (.d 3) false, .pin (.d 2) false, .pin (.d 1) true,
       .pin (.d 0) false, .pin .e false, .sleep 10] := by decide

/-- V4: 0x38, `RW` not wired. -/
theorem test_transfer_V4 :
    (transferByte (eightBit State.reset).cfg false false 0x38).map Beat.event =
      [.pin .rs false, .pin .e true, .pin (.d 7) false, .pin (.d 6) false, .pin (.d 5) true, .pin (.d 4) true,
       .pin (.d 3) true, .pin (.d 2) false, .pin (.d 1) false, .pin (.d 0) false, .pin .e false, .sleep 10] := by decide

/-! ## One instruction each -/

/-- V20: nibbles and bytes of `INIT`, read as bytes 0x33 0x32 first. -/
theorem test_init_V20 :
    sends .init State.reset
      [(false, 0x33), (false, 0x32), (false, 0x28), (false, 0x06), (false, 0x01), (false, 0x0E)] = true := by decide
/-- V20: 108 events, 160 ms. -/
theorem test_init_V20_length :
    answers (exec .init State.reset) (fun t =>
      decide (t.pending.length = 108) && decide (sleepSum t.pending = 160) && decide (t.lc = .initialising)) = true := by
  decide
/-- V52, and V55: a kind that is not sent. -/
theorem test_dchr_V52 : sends (.dchr .char 0x41) ready [(true, 0x41)] = true := by decide
theorem test_dchr_V55 :
    answers (exec (.dchr (.other true) 0x41) ready) (fun t => decide (t.seq = .idle)) = true := by decide
/-- V58: the middle character is skipped. -/
theorem test_dstr_V58 :
    sends (.dstr [⟨.char, 0x48⟩, ⟨.other false, 0⟩, ⟨.code, 0x69⟩]) ready [(true, 0x48), (true, 0x69)] = true := by decide
/-- V10, V11. -/
theorem test_clr_V10 : sends .clr ready [(false, 0x01)] = true := by decide
theorem test_home_V11 : sends .home ready [(false, 0x02)] = true := by decide
/-- Section 2.4: two rows, column 999 of row 2; row 3 is refused. -/
theorem test_scur_clamp : sends (.scur 2 999) ready [(false, 0xE7)] = true := by decide
theorem test_scur_refused :
    answers (exec (.scur 3 1) ready) (fun t =>
      decide (t.outcome = some (.refused .outOfDomain)) && decide (t.seq = .idle)) = true := by decide
/-- V19 and E5. -/
theorem test_sdsp_V19 : sends (.sdsp false true false) ready [(false, 0x0A)] = true := by decide
theorem test_sdsp_V18_mirror :
    answers (exec (.sdsp true false true) ready) (fun t =>
      decide (t.mirror = { readyMirror with d := some true, c := some false, b := some true })) = true := by decide
/-- V13. -/
theorem test_sent_V13 : sends (.sent false true) ready [(false, 0x05)] = true := by decide
/-- V30, V36. -/
theorem test_blnk_V30 : sends (.blnk true) ready [(false, 0x0F)] = true := by decide
theorem test_blnk_V36 :
    answers (exec (.blnk true) State.reset) (fun t =>
      decide (t.outcome = some (.refused .mirrorUnwritten)) && t.violPreinit && decide (t.seq = .idle)) = true := by
  decide
/-- V32. -/
theorem test_curs_V32 : sends (.curs false) ready [(false, 0x0C)] = true := by decide
/-- E5, corrected: display off, cursor off, blink on is 0x09. -/
theorem test_disp_E5 :
    sends (.disp false) { ready with mirror := { readyMirror with c := some false, b := some true } }
      [(false, 0x09)] = true := by decide
/-- V44: bytes, and 2 * 20 ms + 2 * 5 ms. -/
theorem test_scrl_V44 : sends (.scrl 2 5) ready [(false, 0x18), (false, 0x18)] = true := by decide
theorem test_scrl_V44_sleep :
    answers (exec (.scrl 2 5) (eightBit ready)) (fun t => decide (sleepSum t.pending = 30)) = true := by decide
/-- V41, V45. -/
theorem test_scrr_V41 : sends (.scrr 1 0) ready [(false, 0x1C)] = true := by decide
theorem test_scrr_V45 : answers (exec (.scrr 0 500) ready) (fun t => decide (t.seq = .idle)) = true := by decide
/-- V42, V43. -/
theorem test_curl_V42 : sends (.curl 1 0) ready [(false, 0x10)] = true := by decide
theorem test_curr_V43 : sends (.curr 1 0) ready [(false, 0x14)] = true := by decide
/-- The bytes of R61 by themselves. -/
theorem test_strw : sends (.strw .char 0x42) ready [(true, 0x42)] = true := by decide
theorem test_clear : sends .clear ready [(false, 0x01)] = true := by decide
theorem test_homeByte : sends .homeByte ready [(false, 0x02)] = true := by decide
theorem test_entry : sends (.entry true false) ready [(false, 0x06)] = true := by decide
theorem test_dctrl : sends (.dctrl true true false) ready [(false, 0x0E)] = true := by decide
theorem test_shift : sends (.shift true true) ready [(false, 0x1C)] = true := by decide
theorem test_fset : sends (.fset true true true) ready [(false, 0x3C)] = true := by decide
theorem test_sddra : sends (.sddra 0x32) ready [(false, 0xB2)] = true := by decide
theorem test_data : sends (.data 0xA5) ready [(true, 0xA5)] = true := by decide
/-- E3: the first raw nibble has the long delay, and it is one pulse. -/
theorem test_wake :
    answers (exec .wake ready) (fun t =>
      decide (sleepSum t.pending = 50) && decide (pulseCount t.pending = 1)) = true := by decide
theorem test_set4 :
    answers (exec .set4 ready) (fun t =>
      decide (sleepSum t.pending = 10) && decide (pulseCount t.pending = 1)) = true := by decide

/-- Section 2.4: every row count. -/
theorem test_address :
    computeDDRAMAddress .one 1 999 = some 79 ∧ computeDDRAMAddress .two 1 40 = some 39 ∧
    computeDDRAMAddress .two 2 1 = some 64 ∧ computeDDRAMAddress .four 3 1 = some 20 ∧
    computeDDRAMAddress .four 4 20 = some 103 ∧ computeDDRAMAddress .one 2 1 = none ∧
    computeDDRAMAddress .two 1 0 = none ∧ computeDDRAMAddress .two 0 1 = none := by decide

/-- Row-count normalisation (R12). -/
theorem test_rows :
    [1, 2, 4, 0, 3, 5, 100].map normaliseRows = [.one, .two, .four, .four, .four, .four, .four] := by decide

/-! ## Witnesses: for every statement with hypotheses, inputs that meet them, one for every clause -/

theorem noConstruct_of_env {s : State} (h : s.env = []) : s.noConstruct := by
  intro p hp
  simp [h] at hp

/-- `DecodeOfEncode`, `RequestReadFromStream`: the largest operands. -/
theorem witness_wellFormed :
    (Instr.scur 4095 65535).wellFormed = true ∧ encode (.scur 4095 65535) = .request [0x5FFFFFFF] ∧
    (Instr.dstr [⟨.other true, 0xFF⟩]).wellFormed = true ∧
    encode (.dstr [⟨.other true, 0xFF⟩]) = .request [0x20010000, 0x000003FF] := by decide

/-- `ByteSplitsHighNibbleFirst`: both bus widths, and `NPH` 0. -/
theorem witness_ByteSplitsHighNibbleFirst :
    (eightBit ready).cfg.busw = .eightBit ∧ ready.cfg.busw = .fourBit ∧ ready.nph = .high := by decide

theorem witness_DeviceReadsTheByteSent : BusReader.start.half = none := rfl

/-- `BusyStepEmitsOneEvent`: not the last event, the last one, and the last one of `INIT`. -/
theorem witness_BusyStepEmitsOneEvent :
    (busy.env = [] ∧ busy.seq = .busy twoBeats 0 ∧ twoBeats[0]? = some (plain (.pin .e true)) ∧
      0 + 1 < twoBeats.length) ∧
    (twoBeats[1]? = some (plain (.pin .e false)) ∧ 1 + 1 = twoBeats.length ∧ busy.lc ≠ .initialising ∧
      ({ busy with seq := .busy twoBeats 1 } : State).seq = .busy twoBeats 1) ∧
    ({ busy with lc := .initialising } : State).lc = .initialising := by decide

theorem witness_BusyRunsToIdle :
    busy.env = [] ∧ busy.seq = .busy twoBeats 0 ∧ 0 < twoBeats.length := by decide

/-- `BusyStepTakesNoRequest`, with a request waiting at the port. -/
theorem witness_BusyStepTakesNoRequest :
    ∃ t, busy.seq ≠ .idle ∧ busy.noConstruct ∧ step { busy with port := [0x30000000] } = .next t :=
  ⟨_, by decide, noConstruct_of_env rfl, rfl⟩

theorem witness_RequestWaitsWhileBusy : isRequest .clr = true ∧ busy.seq ≠ .idle := by decide

theorem witness_DeviceResetTouchesGhostsOnly :
    ({ busy with env := [.devReset] } : State).env = .devReset :: [] := rfl

/-- `ConstructionResult`: a list of the right length and one that is too short; 8 bits; both orders of the list. -/
theorem witness_ConstructionResult :
    resetParams.dataPins.length = (if resetParams.busWidth = .fourBit then 4 else 8) ∧
    ({ resetParams with dataPins := [3, 4, 5] } : ConstructionParams).dataPins.length ≠
      (if resetParams.busWidth = .fourBit then 4 else 8) ∧
    ({ resetParams with busWidth := .eightBit, dataPins := [0, 1, 2, 3, 4, 5, 6, 7] } :
      ConstructionParams).dataPins.length = 8 ∧
    resetParams.dataPinOrder = .msbFirstList ∧
    ({ resetParams with dataPinOrder := .lsbFirstList } : ConstructionParams).dataPinOrder ≠ .msbFirstList := by decide

/-- `ReconstructionForgetsTheBlock`: both clauses. -/
theorem witness_ReconstructionForgetsTheBlock :
    ({ busy with env := [.construct resetParams] } : State).env = .construct resetParams :: [] ∧
    construct resetParams = .ok State.reset ∧
    construct { resetParams with dataPins := [] } = .error .badConfiguration := by decide

theorem witness_StepRunsPresentedRequest :
    ready.env = [] ∧ ready.seq = .idle ∧ ready.call = none ∧
    decodePort ({ ready with port := [0x5FFFFFFF, 0x30000000] } : State).port =
      .request (.scur 4095 65535) [0x30000000] ∧
    (Instr.scur 4095 65535).wellFormed = true := by decide

theorem witness_StepRunsEncoderWord :
    ready.env = [] ∧ ready.seq = .idle ∧ ({ ready with call := some (.ir8 0xFF) } : State).call = some (.ir8 0xFF) ∧
    decodeDevice (.ir8 0xFF) = some (.sddra 0x7F) ∧ (Instr.sddra 0x7F).wellFormed = true := by decide

theorem witness_QuietStepIsTheBlocks : ({ ready with env := [.quiet] } : State).env = .quiet :: [] := rfl

theorem witness_ReservedRequestConsumed :
    ready.env = [] ∧ ready.seq = .idle ∧ ready.call = none ∧
    decodePort ({ ready with port := [0xF0000000, 0x30000000] } : State).port = .reserved [0x30000000] := by decide

/-- `IdleWithoutRequestStays`: no word, and a string whose last word is missing. -/
theorem witness_IdleWithoutRequestStays :
    ready.env = [] ∧ ready.seq = .idle ∧ ready.call = none ∧ decodePort ready.port = .waiting ∧
    decodePort [0x20020000, 0x00000141] = .waiting := by decide

/-- `LifecycleFlagsOnAcceptance`: a request that is performed and one that is refused for each reason, before `INIT`
and after it, with the mirror stale and not. -/
theorem witness_LifecycleFlagsOnAcceptance :
    isRequest (.scur 0 0) = true ∧ Instr.scur 0 0 ≠ .init ∧ State.reset.seq = .idle ∧ State.reset.lc = .preInit ∧
    ready.seq = .idle ∧ ready.lc ≠ .preInit ∧ ready.mirrorStale = false ∧
    ({ ready with mirrorStale := true } : State).mirrorStale = true ∧
    refusalOf ready .clr = none ∧ refusalOf State.reset .clr = none ∧
    refusalOf ready (.scur 0 0) = some .outOfDomain ∧ refusalOf State.reset (.blnk true) = some .mirrorUnwritten := by
  decide

/-- The result statements from an idle sequencer: `ClearAndHomeResult`, `EntryModeResult`, `DisplayControlResult`,
`CharacterResult`, `StringSendsCharactersInOrder`, `ShiftRequestsRepeat`, `InitResult`, `InitIsItsSteps`. -/
theorem witness_idle : ready.seq = .idle ∧ State.reset.seq = .idle ∧ (eightBit ready).seq = .idle := by decide

theorem witness_PartialSettersKeepTheOthers :
    ready.seq = .idle ∧ ready.mirror.d = some true ∧ ready.mirror.c = some true ∧ ready.mirror.b = some false := by
  decide

/-- `PartialSettersRefusedUnwritten`: every flag by itself. -/
theorem witness_PartialSettersRefusedUnwritten :
    State.reset.seq = .idle ∧
    ({ ready with mirror := { readyMirror with d := none } } : State).mirror.d = none ∧
    ({ ready with mirror := { readyMirror with c := none } } : State).mirror.c = none ∧
    ({ ready with mirror := { readyMirror with b := none } } : State).mirror.b = none := by decide

/-- `AddressFormula`: the last row of every geometry, the first column; and a display of 3 rows. -/
theorem witness_AddressFormula :
    (1 ≤ 1 ∧ 1 ≤ rowCount .one) ∧ (1 ≤ 2 ∧ 2 ≤ rowCount .two) ∧ (1 ≤ 4 ∧ 4 ≤ rowCount .four) ∧ 1 ≤ (1 : Nat) ∧
    ({ resetParams with rowCount := 3 } : ConstructionParams).rowCount = 3 ∧
    construct { resetParams with rowCount := 3 } =
      .ok { State.reset with cfg := { State.reset.cfg with rowsRaw := 3, rows := .four } } := by decide

/-- `AddressBounds`: an address at the clamp, one column on, and every way out of the domain. -/
theorem witness_AddressBounds :
    computeDDRAMAddress .two 2 40 = some 103 ∧ 40 ≤ 41 ∧ computeDDRAMAddress .two 2 41 = some 103 ∧
    columnLimit .two ≤ 40 ∧ computeDDRAMAddress .two 3 1 = none ∧ computeDDRAMAddress .two 0 1 = none ∧
    computeDDRAMAddress .two 1 0 = none := by decide

theorem witness_RowsDoNotOverlap :
    20 ≤ columnLimit .four ∧ computeDDRAMAddress .four 4 20 = some 103 := by decide

/-- `SetCursorResult`: the last row, the row after it, row 0, column 0. -/
theorem witness_SetCursorResult :
    ready.seq = .idle ∧ 1 ≤ 2 ∧ 2 ≤ rowCount ready.cfg.rows ∧ 1 ≤ (1 : Nat) ∧ rowCount ready.cfg.rows < 3 := by decide

theorem witness_InitRunsToReady : ∃ u, ready.env = [] ∧ ready.seq = .idle ∧ exec .init ready = .next u :=
  ⟨_, rfl, rfl, rfl⟩

/-- A stale state inside an `INIT` of two events, with `i` of them emitted. -/
def staleInit (i : Nat) (seen : Bool) : State :=
  { busy with seq := .busy twoBeats i, lc := .initialising, mirrorStale := true, devResetSeen := seen }

/-- `DeviceResetDuringInitStaysStale`: the last event of a disturbed `INIT` and of an undisturbed one, the event before
it, and a ready block that takes another request. -/
theorem witness_DeviceResetDuringInitStaysStale :
    ((staleInit 1 true).noConstruct ∧ (∃ t, step (staleInit 1 true) = .next t) ∧
      ¬ (staleInit 1 true).endsUndisturbedInit ∧ ¬ (staleInit 1 true).acceptsInit) ∧
    ((staleInit 1 false).noConstruct ∧ (∃ t, step (staleInit 1 false) = .next t) ∧
      (staleInit 1 false).endsUndisturbedInit) ∧
    ((staleInit 0 false).noConstruct ∧ (∃ t, step (staleInit 0 false) = .next t) ∧
      ¬ (staleInit 0 false).endsUndisturbedInit) ∧
    (∃ s t : State, s.lc = .ready ∧ s.mirrorStale = true ∧ s.devResetSeen = true ∧ s.noConstruct ∧ step s = .next t ∧
      ¬ s.endsUndisturbedInit ∧ ¬ s.acceptsInit) := by
  refine ⟨⟨noConstruct_of_env rfl, ⟨_, rfl⟩, ?_, ?_⟩, ⟨noConstruct_of_env rfl, ⟨_, rfl⟩, ?_⟩,
    ⟨noConstruct_of_env rfl, ⟨_, rfl⟩, ?_⟩,
    ⟨{ ready with port := [0x30000000], mirrorStale := true, devResetSeen := true }, _,
      rfl, rfl, rfl, noConstruct_of_env rfl, rfl, ?_, ?_⟩⟩
  · rintro ⟨-, -, seen, -⟩
    cases seen
  · rintro ⟨-, idle, -⟩
    cases idle
  · exact ⟨by simp [State.noDevReset, staleInit, busy, ready, State.reset], rfl, rfl, twoBeats, 1, rfl, by decide⟩
  · rintro ⟨-, -, -, events, i, position, last⟩
    cases position
    exact absurd last (by decide)
  · rintro ⟨-, initialising, -⟩
    cases initialising
  · rintro ⟨-, -, -, rest, init⟩
    exact absurd (init.symm.trans (by decide : decodePort [0x30000000] = .request .clr [])) (by simp)

/-- `RawNibbleRows`: both widths, and both positions of `WAKE`. -/
theorem witness_RawNibbleRows :
    (eightBit ready).cfg.busw = .eightBit ∧ ready.cfg.busw = .fourBit ∧ ready.seq = .idle ∧ busy.seq ≠ .idle := by decide

theorem witness_RequestFrame : ∃ t, isRequest (.blnk true) = true ∧ Instr.blnk true ≠ .init ∧
    exec (.blnk true) ready = .next t :=
  ⟨_, rfl, by decide, rfl⟩

theorem witness_InitFrame : ∃ t, exec .init ready = .next t := ⟨_, rfl⟩

/-- `EncoderRowFrame`: a row that writes no mirror flag. -/
theorem witness_EncoderRowFrame : ∃ t, isRequest .wake = false ∧ exec .wake ready = .next t ∧
    (∀ x y, Instr.wake ≠ .entry x y) ∧ (∀ x y z, Instr.wake ≠ .dctrl x y z) :=
  ⟨_, rfl, rfl, by simp, by simp⟩

/-- `MirrorWriters`: one request for each clause. -/
theorem witness_MirrorWriters :
    (∃ t, exec (.scur 1 1) ready = .next t) ∧ (∃ t, exec (.sent true true) ready = .next t) ∧
    (∃ t, exec (.sdsp true true true) ready = .next t) ∧ (∃ t, exec (.blnk true) ready = .next t) ∧
    (∃ t, exec (.curs true) ready = .next t) ∧ (∃ t, exec (.disp true) ready = .next t) ∧
    isRequest (.scur 1 1) = true ∧ Instr.scur 1 1 ≠ .init ∧ (∀ x y z, Instr.scur 1 1 ≠ .sdsp x y z) ∧
    (∀ x y, Instr.scur 1 1 ≠ .sent x y) ∧ (∀ x, Instr.scur 1 1 ≠ .blnk x) ∧ (∀ x, Instr.scur 1 1 ≠ .curs x) ∧
    (∀ x, Instr.scur 1 1 ≠ .disp x) :=
  ⟨⟨_, rfl⟩, ⟨_, rfl⟩, ⟨_, rfl⟩, ⟨_, rfl⟩, ⟨_, rfl⟩, ⟨_, rfl⟩, rfl, by simp, by simp, by simp, by simp, by simp, by simp⟩

theorem witness_ConfigurationNeverWritten :
    (∃ t, exec (.fset true true true) ready = .next t) ∧ ∃ t, busy.noConstruct ∧ step busy = .next t :=
  ⟨⟨_, rfl⟩, ⟨_, noConstruct_of_env rfl, rfl⟩⟩

theorem witness_NoStepStops : ready.call = none ∧ ready.noConstruct := ⟨rfl, noConstruct_of_env rfl⟩

/-- `StickyFlagsStay`: every flag set. -/
theorem witness_StickyFlagsStay :
    ∃ s t : State, s.noConstruct ∧ step s = .next t ∧ s.violPreinit = true ∧ s.violStale = true ∧
      s.errRsvd = true ∧ s.refusedRun = true :=
  ⟨{ ready with port := [0x00000000], violPreinit := true, violStale := true, errRsvd := true, refusedRun := true }, _,
    noConstruct_of_env rfl, rfl, rfl, rfl, rfl, rfl⟩

/-- `RequestsSendOnlyTheseBytes`: a byte is sent. -/
theorem witness_RequestsSendOnlyTheseBytes :
    ∃ t, isRequest (.scur 2 40) = true ∧ Instr.scur 2 40 ≠ .init ∧ ready.seq = .idle ∧
      exec (.scur 2 40) ready = .next t ∧ (false, 0xE7) ∈ bytesOf ready.cfg.busw t.pending :=
  ⟨_, rfl, by decide, rfl, rfl, by decide⟩

/-- `NibblesPairUp`: every clause. -/
theorem witness_NibblesPairUp :
    (∃ t, isRequest .clr = true ∧ ready.seq = .idle ∧ exec .clr ready = .next t ∧ ready.cfg.busw = .fourBit ∧
      Instr.clr ≠ .init) ∧
    (∃ t, exec .init ready = .next t) ∧
    (∃ t, (eightBit ready).cfg.busw = .eightBit ∧ exec .init (eightBit ready) = .next t) :=
  ⟨⟨_, rfl, rfl, rfl, rfl, by decide⟩, ⟨_, rfl⟩, ⟨_, rfl, rfl⟩⟩

/-- `BlockingTimes`: the amounts of R208's table with the default durations, a request that is not sent, and one that is
refused. -/
theorem witness_BlockingTimes :
    ready.seq = .idle ∧
    blockingTime ready.cfg .init = some 160 ∧ blockingTime (eightBit ready).cfg .init = some 40 ∧
    blockingTime ready.cfg .clr = some 20 ∧ blockingTime (eightBit ready).cfg .clr = some 10 ∧
    blockingTime ready.cfg (.dchr .char 0x41) = some 20 ∧ blockingTime ready.cfg (.dchr (.other true) 0x41) = some 0 ∧
    blockingTime ready.cfg (.dstr [⟨.char, 0x41⟩, ⟨.other false, 0⟩]) = some 20 ∧
    blockingTime ready.cfg (.scrl 2 5) = some 50 ∧
    blockingTime ready.cfg (.scur 0 0) = some 20 ∧ refusalOf ready (.scur 0 0) = some .outOfDomain ∧
    refusalOf ready .clr = none := by decide

/-- `TraceDependsOnConfigurationAndMirror`: two states that differ elsewhere; a request that reads no mirror flag from
two mirrors. -/
theorem witness_TraceDependsOnConfigurationAndMirror :
    ∃ t t' : State, ready.seq = .idle ∧ State.reset.seq = .idle ∧ ready.cfg = State.reset.cfg ∧
      exec .clr ready = .next t ∧ exec .clr State.reset = .next t' ∧
      ready.mirror = ({ ready with lc := .preInit, out := [.sleep 1] } : State).mirror ∧
      (∀ on, Instr.clr ≠ .blnk on) ∧ (∀ on, Instr.clr ≠ .curs on) ∧ (∀ on, Instr.clr ≠ .disp on) :=
  ⟨_, _, rfl, rfl, rfl, rfl, rfl, rfl, by simp, by simp, by simp⟩

/-- The invariant holds of a ready state that has a request waiting. -/
theorem inv_ready : ({ ready with port := [0x30000000] } : State).Inv where
  positionInTrace := by intro events i h; cases h
  initialisingIsBusy := by intro h; cases h
  rowsNormalised := rfl
  pinsOfWiredRoles := rfl
  modesOfWiredRoles := rfl
  pendingAllowed := by intro e h; cases h
  unwiredUndriven := by intro role _; cases role <;> simp [ready, State.reset, Latches.level, Latches.undriven]
  readWriteNotHigh := by decide
  enableEndsLow := by decide

theorem witness_StepKeepsInv :
    ∃ t, ({ ready with port := [0x30000000] } : State).Inv ∧ step { ready with port := [0x30000000] } = .next t :=
  ⟨_, inv_ready, rfl⟩

theorem witness_StepKeepsFraming :
    ∃ t, ({ ready with port := [0x30000000] } : State).Inv ∧
      ({ ready with port := [0x30000000] } : State).noConstruct ∧
      ({ ready with port := [0x30000000] } : State).framed ∧ step { ready with port := [0x30000000] } = .next t :=
  ⟨_, inv_ready, noConstruct_of_env rfl, (by decide : NibblePhase.high ≠ .low), rfl⟩

/-- `StepKeepsNibblePhase`: a ready block that takes a request. -/
theorem witness_StepKeepsNibblePhase :
    ∃ t, ready.cfg.busw = .fourBit ∧ ({ ready with port := [0x30000000] } : State).Inv ∧
      ({ ready with port := [0x30000000] } : State).noConstruct ∧
      ({ ready with port := [0x30000000] } : State).noDevReset ∧
      ({ ready with port := [0x30000000] } : State).noRawCall ∧
      ({ ready with port := [0x30000000] } : State).phaseHigh ∧ step { ready with port := [0x30000000] } = .next t :=
  ⟨_, rfl, inv_ready, noConstruct_of_env rfl, by simp [State.noDevReset, ready, State.reset],
    by simp [State.noRawCall, ready, State.reset], rfl, rfl⟩

/-- The ready state with the last two bytes of its `INIT` in the output. -/
def readyWithOutput : State :=
  { ready with
    port := [0x30000000]
    out := (transferByte ready.cfg false false 0x06 ++ transferByte ready.cfg false false 0x0E).map Beat.event }

theorem witness_StepKeepsMirrorAgreement :
    ∃ t, readyWithOutput.Inv ∧ readyWithOutput.noConstruct ∧ readyWithOutput.call = none ∧
      readyWithOutput.mirrorAgrees ∧ step readyWithOutput = .next t := by
  refine ⟨_, { inv_ready with }, noConstruct_of_env rfl, rfl, ⟨by decide, ?_, ?_⟩, rfl⟩
  · intro b h
    obtain rfl : b = 0x0E := by simpa using h.symm.trans (by decide : readyWithOutput.mirror.dcr = some 0x0E)
    decide
  · intro b h
    obtain rfl : b = 0x06 := by simpa using h.symm.trans (by decide : readyWithOutput.mirror.emr = some 0x06)
    decide

end Sys2Proof.Tests
end

/-!
PROOF. The configuration is written by construction alone (`spec/10_state.md` R17): no instruction writes it, nor does
what the sequencer or the environment does in any other step.
-/

namespace Sys2Proof.Machine

/-- No instruction writes the configuration (R17). -/
theorem exec_keeps_cfg {i : Instr} {s t : State} (h : exec i s = .next t) : t.cfg = s.cfg := by
  cases hi : isRequest i with
  | false =>
    obtain ⟨m, tr, -, hr⟩ | ⟨-, hr⟩ | ⟨-, hr⟩ := encoderRow_cases hi h <;> cases hr <;> simp
  | true =>
    by_cases hn : i = .init
    · subst hn
      obtain ⟨-, hr⟩ | ⟨-, hr⟩ := init_cases h <;> cases hr <;> simp
    · obtain ⟨-, hr⟩ | ⟨-, m, tr, -, hr⟩ | ⟨-, code, hr⟩ := request_cases hi hn h <;> cases hr <;> simp

/-- Taking an instruction from the port or from the encoder level leaves the configuration alone. -/
theorem State.fetch_instr_keeps_cfg {s t : State} {i : Instr} (h : s.fetch = .instr i t) : t.cfg = s.cfg := by
  obtain ⟨_, -, -, hf⟩ | ⟨_, _, -, -, hf⟩ | ⟨-, -, hf⟩ | ⟨_, -, -, hf⟩ | ⟨_, _, -, -, hf⟩ := s.fetch_cases <;>
    cases hf.symm.trans h <;> simp

/-- Consuming a reserved request leaves the configuration alone (R70). -/
theorem State.fetch_reserved_keeps_cfg {s t : State} (h : s.fetch = .reserved t) : t.cfg = s.cfg := by
  obtain ⟨_, -, -, hf⟩ | ⟨_, _, -, -, hf⟩ | ⟨-, -, hf⟩ | ⟨_, -, -, hf⟩ | ⟨_, _, -, -, hf⟩ := s.fetch_cases <;>
    cases hf.symm.trans h
  simp

/-- The block's own step never writes the configuration: an event of the trace, or what an idle sequencer finds. -/
theorem blockStep_keeps_cfg {s t : State} (h : blockStep s = .next t) : t.cfg = s.cfg := by
  obtain ⟨events, i, -, hr⟩ | ⟨-, -, hr⟩ | ⟨-, u, hf, hr⟩ | ⟨-, i, u, hf, hr⟩ | ⟨-, -, hr⟩ := blockStep_cases h
  · cases hr
    exact (s.advance_frame events i).1
  · cases hr
    rfl
  · cases hr
    exact State.fetch_reserved_keeps_cfg hf
  · exact (exec_keeps_cfg hr.symm).trans (State.fetch_instr_keeps_cfg hf)
  · cases hr

/-- A step that is no construction leaves the configuration alone (R17). -/
theorem step_keeps_cfg {s t : State} (hc : s.noConstruct) (h : step s = .next t) : t.cfg = s.cfg := by
  obtain ⟨-, hb⟩ | ⟨rest, -, hb⟩ | ⟨rest, -, hr⟩ | ⟨p, rest, u, he, -, -⟩ | ⟨p, rest, code, he, -, -⟩ := step_cases h
  · exact blockStep_keeps_cfg hb
  · simpa using blockStep_keeps_cfg hb
  · cases hr
    simp
  · exact absurd (by simp [he]) (hc p)
  · exact absurd (by simp [he]) (hc p)

/-- Settles O45: an instruction by the three ways one can act, a step by what the environment and the sequencer do. -/
theorem configurationNeverWritten : Obligations.ConfigurationNeverWritten :=
  ⟨fun _ _ _ => exec_keeps_cfg, fun _ _ => step_keeps_cfg⟩

end Sys2Proof.Machine

/-!
PROOF. How a byte is cut into transfers (`spec/40_bus_transfer.md` R92): whole in 8-bit mode, high nibble first in 4-bit
mode, where each nibble turns the nibble phase over once.
-/

namespace Sys2Proof.Machine

theorem transferByte_eightBit {cfg : Cfg} (h : cfg.busw = .eightBit) (rs rw : Bool) (b : Byte) :
    transferByte cfg rs rw b = transfer8 cfg rs rw b cfg.tSettle := by
  simp only [transferByte, h]

theorem transferByte_fourBit {cfg : Cfg} (h : cfg.busw = .fourBit) (rs rw : Bool) (b : Byte) :
    transferByte cfg rs rw b =
      transfer4 cfg rs rw (highNibble b) cfg.tSettle ++ transfer4 cfg rs rw (lowNibble b) cfg.tSettle := by
  simp only [transferByte, h]

/-- Half a byte turns the nibble phase over, at the falling edge of its pulse (R44). -/
theorem transfer4_nph (cfg : Cfg) (rs rw : Bool) (n : Nibble) (d : Nat) (s : State) :
    ((transfer4 cfg rs rw n d).foldl (fun u beat => u.emit beat) s).nph = s.phaseAfter .half :=
  emitAll_pulse_nph cfg rs rw (nibbleLines n) d .half .none s

/-- Settles O7: the two bus widths, and in 4-bit mode `NPH` after the high nibble and after the whole byte. -/
theorem byteSplitsHighNibbleFirst : Obligations.ByteSplitsHighNibbleFirst := by
  intro s rs rw b
  refine ⟨fun eight => ⟨transferByte_eightBit eight rs rw b, ?_⟩,
    fun four => ⟨transferByte_fourBit four rs rw b, ?_, fun high => ⟨?_, ?_⟩⟩⟩
  · simp [transferByte_sleep, eight]
  · simp [transferByte_sleep, four]
  · simp [transfer4_nph, State.phaseAfter, high]
  · exact (transferByte_nph s.cfg rs rw b s).trans high

end Sys2Proof.Machine

/-!
PROOF. The DDRAM address calculator on its domain (`spec/43_addressing.md` R130 to R133): the clamp of R131 by the row
count, the offset of R132 by the row, and the row count that construction gives a display of 3 rows (R12).
-/

namespace Sys2Proof.Machine

@[simp] theorem maxColumn_eq_columnLimit (rows : Rows) : maxColumn rows = columnLimit rows := by
  cases rows <;> rfl

theorem rowCount_le_four (rows : Rows) : rowCount rows ≤ 4 := by
  cases rows <;> decide

/-- The source gives an offset to each of the rows 1 to 4 (R132). -/
theorem rowOffset_eq_offsetOfRow {row : Nat} (one_le : 1 ≤ row) (le_four : row ≤ 4) :
    rowOffset row = some (offsetOfRow row) := by
  interval_cases row <;> rfl

/-- On its domain (R133) the calculator clamps the column from above, subtracts 1 and adds the row's offset (R130). -/
theorem computeDDRAMAddress_of_domain {rows : Rows} {row column : Nat} (one_le_row : 1 ≤ row)
    (row_le : row ≤ rowCount rows) (one_le_column : 1 ≤ column) :
    computeDDRAMAddress rows row column = some ((min column (columnLimit rows) - 1) + offsetOfRow row) := by
  have inDomain : ¬(row = 0 ∨ rowCount rows < row ∨ column = 0) := by omega
  have offset := rowOffset_eq_offsetOfRow one_le_row (row_le.trans (rowCount_le_four rows))
  simp [computeDDRAMAddress, inDomain, offset]

/-- Construction normalises the row count it is given (R12, R191). -/
theorem construct_rows {p : ConstructionParams} {s : State} (h : construct p = .ok s) :
    s.cfg.rows = normaliseRows p.rowCount := by
  unfold construct at h
  split at h
  · cases h
    rfl
  · cases h

/-- Settles O30: the formula on the calculator's domain, and 3 rows normalised to the 4-row geometry. -/
theorem addressFormula : Obligations.AddressFormula := by
  refine ⟨fun _ _ _ => computeDDRAMAddress_of_domain, fun p s three built => ?_⟩
  have rows : s.cfg.rows = .four := (construct_rows built).trans (congrArg normaliseRows three)
  rw [rows, columnLimit]

end Sys2Proof.Machine

/-!
PROOF. Decoding (`spec/30_encoding.md` section 3): the rows whose operands are single bits, a request read from the
front of the port, every row read back from its encoding, and the table of masks and matches.
-/

namespace Sys2Proof

/-! ## Rows with fixed words or single bits -/

theorem decodeHead_init : decodeHead (requestWord 0x0#4 0#12 0#16) = .whole .init := by decide

theorem decodeHead_clr : decodeHead (requestWord 0x3#4 0#12 0#16) = .whole .clr := by decide

theorem decodeHead_home : decodeHead (requestWord 0x4#4 0#12 0#16) = .whole .home := by decide

theorem decodeHead_sdsp (on cursor blink : Bool) :
    decodeHead (requestWord 0x6#4 0#12
      (0#13 ++ BitVec.ofBool on ++ BitVec.ofBool cursor ++ BitVec.ofBool blink)) = .whole (.sdsp on cursor blink) := by
  revert on cursor blink
  decide

theorem decodeHead_sent (increment shift : Bool) :
    decodeHead (requestWord 0x7#4 0#12 (0#14 ++ BitVec.ofBool increment ++ BitVec.ofBool shift)) =
      .whole (.sent increment shift) := by
  revert increment shift
  decide

theorem decodeHead_blnk (on : Bool) :
    decodeHead (requestWord 0x8#4 0#12 (0#15 ++ BitVec.ofBool on)) = .whole (.blnk on) := by
  revert on
  decide

theorem decodeHead_curs (on : Bool) :
    decodeHead (requestWord 0x9#4 0#12 (0#15 ++ BitVec.ofBool on)) = .whole (.curs on) := by
  revert on
  decide

theorem decodeHead_disp (on : Bool) :
    decodeHead (requestWord 0xA#4 0#12 (0#15 ++ BitVec.ofBool on)) = .whole (.disp on) := by
  revert on
  decide

/-! ## Operands that fit their fields -/

theorem toNat_ofNat_fieldA {n : Nat} (h : n < fieldABound) : (BitVec.ofNat 12 n).toNat = n := by
  simpa using Nat.mod_eq_of_lt h

theorem toNat_ofNat_fieldB {n : Nat} (h : n < fieldBBound) : (BitVec.ofNat 16 n).toNat = n := by
  simpa using Nat.mod_eq_of_lt h

/-- The four shift requests and `SCUR` share the layout of `a` and `b` (R69). -/
theorem wellFormed_fields {a b : Nat} (h : (decide (a < fieldABound) && decide (b < fieldBBound)) = true) :
    (BitVec.ofNat 12 a).toNat = a ∧ (BitVec.ofNat 16 b).toNat = b := by
  simp only [Bool.and_eq_true, decide_eq_true_eq] at h
  exact ⟨toNat_ofNat_fieldA h.1, toNat_ofNat_fieldB h.2⟩

/-! ## The front of the port -/

/-- A request of one word is taken with its word (R74). -/
theorem decodePort_of_whole {w : Word} {i : Instr} (h : decodeHead w = .whole i) (rest : List Word) :
    decodePort (w :: rest) = .request i rest := by
  simp [decodePort, h]

/-- A string is taken with the words its header asks for (R71). -/
theorem decodePort_dstr {chars : List StrChar} (fits : chars.length < fieldABound) (rest : List Word) :
    decodePort (requestWord 0x2#4 (BitVec.ofNat 12 chars.length) 0#16 :: (chars.map strWord ++ rest)) =
      .request (.dstr chars) rest := by
  have taken : (chars.map strWord ++ rest).take chars.length = chars.map strWord := List.take_left' (by simp)
  have left : (chars.map strWord ++ rest).drop chars.length = rest := List.drop_left' (by simp)
  have enough : ¬ (chars.map strWord ++ rest).length < chars.length := by simp
  simp only [decodePort, decodeHead_dstr, toNat_ofNat_fieldA fits, taken, left, if_neg enough, mapM_decodeStrw]

/-- Settles O2: row by row, what the decoder makes of the first word of the row's encoding. -/
theorem requestReadFromStream : Obligations.RequestReadFromStream := by
  intro i words rest wf encoded
  cases i <;> cases encoded
  case init => exact decodePort_of_whole decodeHead_init rest
  case dchr kind code => exact decodePort_of_whole (decodeHead_dchr kind code) rest
  case dstr chars => exact decodePort_dstr (of_decide_eq_true wf) rest
  case clr => exact decodePort_of_whole decodeHead_clr rest
  case home => exact decodePort_of_whole decodeHead_home rest
  case scur row column =>
    obtain ⟨ha, hb⟩ := wellFormed_fields wf
    exact decodePort_of_whole ((decodeHead_scur _ _).trans (by rw [ha, hb])) rest
  case sdsp on cursor blink => exact decodePort_of_whole (decodeHead_sdsp on cursor blink) rest
  case sent increment shift => exact decodePort_of_whole (decodeHead_sent increment shift) rest
  case blnk on => exact decodePort_of_whole (decodeHead_blnk on) rest
  case curs on => exact decodePort_of_whole (decodeHead_curs on) rest
  case disp on => exact decodePort_of_whole (decodeHead_disp on) rest
  case scrl count delay =>
    obtain ⟨ha, hb⟩ := wellFormed_fields wf
    exact decodePort_of_whole ((decodeHead_scrl _ _).trans (by rw [ha, hb])) rest
  case scrr count delay =>
    obtain ⟨ha, hb⟩ := wellFormed_fields wf
    exact decodePort_of_whole ((decodeHead_scrr _ _).trans (by rw [ha, hb])) rest
  case curl count delay =>
    obtain ⟨ha, hb⟩ := wellFormed_fields wf
    exact decodePort_of_whole ((decodeHead_curl _ _).trans (by rw [ha, hb])) rest
  case curr count delay =>
    obtain ⟨ha, hb⟩ := wellFormed_fields wf
    exact decodePort_of_whole ((decodeHead_curr _ _).trans (by rw [ha, hb])) rest

/-! ## Every row -/

theorem decodeIr8_entryByte (id s : Bool) : decodeIr8 (entryByte id s) = some (.entry id s) := by
  revert id s
  decide

theorem decodeIr8_dctrlByte (d c b : Bool) : decodeIr8 (dctrlByte d c b) = some (.dctrl d c b) := by
  revert d c b
  decide

theorem decodeIr8_shiftByte (sc rl : Bool) : decodeIr8 (shiftByte sc rl) = some (.shift sc rl) := by
  revert sc rl
  decide

theorem decodeIr8_fsetByte (dl n f : Bool) : decodeIr8 (fsetByte dl n f) = some (.fset dl n f) := by
  revert dl n f
  decide

/-- Words presented at the port that read as one request, with nothing behind it, are that request. -/
theorem decode_request_of_decodePort {words : List Word} {i : Instr} (h : decodePort words = .request i []) :
    decode (.request words) = some i := by
  simp [decode, h]

/-- A word below the request level is read back from its encoding by its format's patterns (R61, R64, R65, R71). -/
theorem decodeDevice_encode {i : Instr} {word : DeviceWord} (encoded : encode i = .device word) :
    decodeDevice word = some i := by
  cases i <;> cases encoded
  case strw kind code => exact congrArg (Option.map _) (decodeStrw_strWord ⟨kind, code⟩)
  case clear => rfl
  case homeByte => rfl
  case entry id s => exact decodeIr8_entryByte id s
  case dctrl d c b => exact decodeIr8_dctrlByte d c b
  case shift sc rl => exact decodeIr8_shiftByte sc rl
  case fset dl n f => exact decodeIr8_fsetByte dl n f
  case sddra address => exact decodeIr8_sddraByte address
  case data code => rfl
  case wake => rfl
  case set4 => rfl

/-- Settles O1: a request is read from its words with nothing behind them, a row below the request level from its
word. -/
theorem decodeOfEncode : Obligations.DecodeOfEncode := by
  intro i wf
  cases encoded : encode i with
  | request words =>
    have read := requestReadFromStream i words [] wf encoded
    rw [List.append_nil] at read
    exact decode_request_of_decodePort read
  | device word => exact decodeDevice_encode encoded

/-! ## The request table -/

/-- Every row of the table fixes the whole of `op`, and stands at the place its own `op` names (R68, R69). -/
theorem requestPatterns_by_op : ∀ row ∈ Machine.requestPatterns,
    opField row.1 = 0xF#4 ∧ Machine.requestPatterns[(opField row.2).toNat]? = some row := by
  simp [Machine.requestPatterns, opField]

/-- A word fits at most the row that its `op` names. -/
theorem row_of_fits {w : Word} {row : Word × Word} (listed : row ∈ Machine.requestPatterns)
    (fits : w &&& row.1 = row.2) : Machine.requestPatterns[(opField w).toNat]? = some row := by
  obtain ⟨mask, place⟩ := requestPatterns_by_op row listed
  have op : opField row.2 = opField w := by
    rw [← fits, opField, BitVec.extractLsb'_and]
    change opField w &&& opField row.1 = _
    rw [mask]
    exact BitVec.and_allOnes
  rw [← op]
  exact place

/-- The decoder calls a word reserved when it does not fit the row its `op` names (R70, R74). -/
theorem decodeHead_eq_reserved_iff (w : Word) :
    decodeHead w = .reserved ↔
      ∀ row, Machine.requestPatterns[(opField w).toNat]? = some row → w &&& row.1 ≠ row.2 := by
  have bound : (opField w).toNat < 16 := (opField w).isLt
  unfold decodeHead
  generalize (opField w).toNat = op at bound ⊢
  interval_cases op <;> simp [Machine.requestPatterns]

/-- Settles O3: the decoder looks at the row that `op` names, and no other row fits. -/
theorem reservedExactlyOffTheTable : Obligations.ReservedExactlyOffTheTable := by
  intro w
  rw [decodeHead_eq_reserved_iff]
  constructor
  · intro off row listed fits
    exact off row (row_of_fits listed fits) fits
  · intro off row place
    exact off row (List.mem_of_getElem? place)

/-- Settles O4: the decoder run on each of the words. -/
theorem specWordsDecode : Obligations.SpecWordsDecode := by
  unfold Obligations.SpecWordsDecode
  decide

/-- Settles O5: the 256 bytes. -/
theorem instructionBytesDisjoint : Obligations.InstructionBytesDisjoint := by
  unfold Obligations.InstructionBytesDisjoint
  decide

end Sys2Proof

/-!
PROOF. One step (`spec/10_state.md` R23, `spec/40_bus_transfer.md` R95, `spec/60_exceptions.md` R184): everything a step
that answers a next state can be, said once, and what the environment, a busy sequencer and an idle one each do.
-/

namespace Sys2Proof.Machine

/-! ## What the block does with a quiet environment -/

theorem step_of_env_nil {s : State} (h : s.env = []) : step s = blockStep s := by
  simp only [step, h]

theorem blockStep_busy {s : State} {events : List Beat} {i : Nat} (h : s.seq = .busy events i) :
    blockStep s = .next (s.advance events i) := by
  simp only [blockStep, h]

theorem blockStep_waiting {s : State} (idle : s.seq = .idle) (h : s.fetch = .nothing) : blockStep s = .next s := by
  simp only [blockStep, idle, h]

theorem blockStep_reserved {s t : State} (idle : s.seq = .idle) (h : s.fetch = .reserved t) :
    blockStep s = .next t := by
  simp only [blockStep, idle, h]

theorem blockStep_instr {s t : State} {i : Instr} (idle : s.seq = .idle) (h : s.fetch = .instr i t) :
    blockStep s = exec i t := by
  simp only [blockStep, idle, h]

theorem State.fetch_waiting {s : State} (call : s.call = none) (h : decodePort s.port = .waiting) :
    s.fetch = .nothing := by
  simp only [State.fetch, call, h]

theorem State.fetch_reserved {s : State} {rest : List Word} (call : s.call = none)
    (h : decodePort s.port = .reserved rest) : s.fetch = .reserved (s.setPort rest).refuseReserved := by
  simp only [State.fetch, call, h]

theorem State.fetch_request {s : State} {i : Instr} {rest : List Word} (call : s.call = none)
    (h : decodePort s.port = .request i rest) : s.fetch = .instr i (s.setPort rest) := by
  simp only [State.fetch, call, h]

theorem State.fetch_device {s : State} {i : Instr} {word : DeviceWord} (call : s.call = some word)
    (h : decodeDevice word = some i) : s.fetch = .instr i s.clearCall := by
  simp only [State.fetch, call, h]

/-! ## Everything a step can be -/

/-- The state with the environment's next action used up. -/
def State.afterAction (s : State) : State := s.setEnv s.env.tail

/-- How `s` steps to `t`: by the environment's action, by an event of the trace in progress, or by what an idle
sequencer finds (R23, R95, R184, R190). -/
inductive StepCase (s t : State) : Prop where
  | devReset : s.env.head? = some .devReset → t = s.afterAction.devReset → StepCase s t
  | constructs (p : ConstructionParams) : s.env.head? = some (.construct p) →
    s.afterAction.reconstruct p = .ok t → StepCase s t
  | emits (events : List Beat) (i : Nat) : s.noDevReset → s.seq = .busy events i →
    t = s.afterAction.advance events i → StepCase s t
  | waits : s.noDevReset → s.seq = .idle → s.call = none → decodePort s.port = .waiting →
    t = s.afterAction → StepCase s t
  | reserved (rest : List Word) : s.noDevReset → s.seq = .idle → s.call = none →
    decodePort s.port = .reserved rest → t = (s.afterAction.setPort rest).refuseReserved → StepCase s t
  | request (i : Instr) (rest : List Word) : s.noDevReset → s.seq = .idle → s.call = none →
    decodePort s.port = .request i rest → exec i (s.afterAction.setPort rest) = .next t → StepCase s t
  | device (i : Instr) (word : DeviceWord) : s.noDevReset → s.seq = .idle → s.call = some word →
    decodeDevice word = some i → exec i s.afterAction.clearCall = .next t → StepCase s t

/-- The block's own step, after a quiet action or none. -/
theorem blockStep_next_cases {s t : State} (quiet : s.noDevReset) (h : blockStep s.afterAction = .next t) :
    StepCase s t := by
  obtain ⟨events, i, hs, hr⟩ | ⟨hs, hf, hr⟩ | ⟨hs, u, hf, hr⟩ | ⟨hs, i, u, hf, hr⟩ | ⟨-, -, hr⟩ := blockStep_cases h
  · cases hr
    exact .emits events i quiet hs rfl
  · cases hr
    obtain ⟨_, -, -, hf'⟩ | ⟨_, _, -, -, hf'⟩ | ⟨hc, hp, -⟩ | ⟨_, -, -, hf'⟩ | ⟨_, _, -, -, hf'⟩ :=
      s.afterAction.fetch_cases
    case inr.inr.inl => exact .waits quiet hs hc hp rfl
    all_goals cases hf'.symm.trans hf
  · cases hr
    obtain ⟨_, -, -, hf'⟩ | ⟨_, _, -, -, hf'⟩ | ⟨-, -, hf'⟩ | ⟨rest, hc, hp, hf'⟩ | ⟨_, _, -, -, hf'⟩ :=
      s.afterAction.fetch_cases
    case inr.inr.inr.inl =>
      cases hf'.symm.trans hf
      exact .reserved rest quiet hs hc hp rfl
    all_goals cases hf'.symm.trans hf
  · obtain ⟨_, -, -, hf'⟩ | ⟨word, _, hc, hd, hf'⟩ | ⟨-, -, hf'⟩ | ⟨_, -, -, hf'⟩ | ⟨_, rest, hc, hp, hf'⟩ :=
      s.afterAction.fetch_cases <;> cases hf'.symm.trans hf
    · exact .device i word quiet hs hc hd hr.symm
    · exact .request i rest quiet hs hc hp hr.symm
  · cases hr

/-- Everything a step that answers a next state can be. -/
theorem step_next_cases {s t : State} (h : step s = .next t) : StepCase s t := by
  obtain ⟨he, hb⟩ | ⟨rest, he, hb⟩ | ⟨rest, he, hr⟩ | ⟨p, rest, u, he, hu, hr⟩ | ⟨p, rest, code, -, -, hr⟩ := step_cases h
  · have same : s.afterAction = s := by rw [State.afterAction, he, List.tail_nil, ← he]; rfl
    exact blockStep_next_cases (by simp [State.noDevReset, he]) (same.symm ▸ hb)
  · exact blockStep_next_cases (by simp [State.noDevReset, he]) (by simpa [State.afterAction, he] using hb)
  · cases hr
    exact .devReset (by simp [he]) (by simp [State.afterAction, he])
  · cases hr
    exact .constructs p (by simp [he]) (by simpa [State.afterAction, he] using hu)
  · cases hr

/-! ## The environment -/

/-- Settles O13: the action is used up, and `DEV_RESET` writes three fields. -/
theorem deviceResetTouchesGhostsOnly : Obligations.DeviceResetTouchesGhostsOnly := by
  intro s rest h
  simp only [step, h]
  rfl

/-- Settles O16: the two answers of `construct`, which is all a reconstruction looks at. -/
theorem reconstructionForgetsTheBlock : Obligations.ReconstructionForgetsTheBlock := by
  intro s p rest h
  constructor
  · intro fresh built
    simp only [step, h, State.reconstruct, built]
    rfl
  · intro bad
    simp only [step, h, State.reconstruct, bad]

/-- Settles O19: the action is used up. -/
theorem quietStepIsTheBlocks : Obligations.QuietStepIsTheBlocks := by
  intro s rest h
  simp only [step, h]
  rfl

/-! ## An idle sequencer -/

/-- Settles O17: the port is what an idle sequencer reads when nothing stands at the encoder level. -/
theorem stepRunsPresentedRequest : Obligations.StepRunsPresentedRequest := by
  intro s i rest env idle call read _
  rw [step_of_env_nil env]
  exact blockStep_instr idle (State.fetch_request call read)

/-- Settles O18: the encoder-level entry is read first. -/
theorem stepRunsEncoderWord : Obligations.StepRunsEncoderWord := by
  intro s i word env idle call read _
  rw [step_of_env_nil env]
  exact blockStep_instr idle (State.fetch_device call read)

/-- Settles O20: a reserved request is taken and refused in the same step. -/
theorem reservedRequestConsumed : Obligations.ReservedRequestConsumed := by
  intro s rest env idle call read
  rw [step_of_env_nil env]
  exact blockStep_reserved idle (State.fetch_reserved call read)

/-- Settles O21: without a complete request an idle sequencer finds nothing. -/
theorem idleWithoutRequestStays : Obligations.IdleWithoutRequestStays := by
  intro s env idle call read
  rw [step_of_env_nil env]
  exact blockStep_waiting idle (State.fetch_waiting call read)

/-! ## A busy sequencer -/

theorem Seq.exists_busy {q : Seq} (h : q ≠ .idle) : ∃ events i, q = .busy events i := by
  cases q with
  | idle => exact absurd rfl h
  | busy events i => exact ⟨events, i, rfl⟩

theorem step_busy {s : State} {events : List Beat} {i : Nat} (env : s.env = []) (busy : s.seq = .busy events i) :
    step s = .next (s.advance events i) := by
  rw [step_of_env_nil env, blockStep_busy busy]

theorem State.advance_not_last {s : State} {events : List Beat} {i : Nat} {beat : Beat} (at_i : events[i]? = some beat)
    (more : i + 1 < events.length) : s.advance events i = (s.emit beat).setSeq (.busy events (i + 1)) := by
  simp only [State.advance, at_i, if_pos more]

theorem State.advance_last {s : State} {events : List Beat} {i : Nat} {beat : Beat} (at_i : events[i]? = some beat)
    (last : i + 1 = events.length) : s.advance events i = (s.emit beat).complete := by
  simp only [State.advance, at_i, last, Nat.lt_irrefl, if_false]

theorem State.complete_of_not_initialising {s : State} (h : s.lc ≠ .initialising) : s.complete = s.setSeq .idle := by
  cases hl : s.lc with
  | initialising => exact absurd hl h
  | preInit => simp [State.complete, hl, State.setSeq]
  | ready => simp [State.complete, hl, State.setSeq]

theorem State.complete_of_initialising {s : State} (h : s.lc = .initialising) :
    s.complete = { s.setSeq .idle with lc := .ready, mirrorStale := s.mirrorStale && s.devResetSeen } := by
  simp [State.complete, h, State.setSeq]

/-- Settles O9: the event is the last one or not, and the last one ends `INIT` or not. -/
theorem busyStepEmitsOneEvent : Obligations.BusyStepEmitsOneEvent := by
  intro s events i beat env busy at_i
  rw [step_busy env busy]
  refine ⟨fun more => ?_, fun last other => ?_, fun last initialising => ?_⟩
  · rw [State.advance_not_last at_i more]
  · rw [State.advance_last at_i last, State.complete_of_not_initialising (by simpa using other)]
  · rw [State.advance_last at_i last, State.complete_of_initialising (by simpa using initialising)]
    rfl

/-- Settles O11: a busy step emits an event or is a device reset. -/
theorem busyStepTakesNoRequest : Obligations.BusyStepTakesNoRequest := by
  intro s t busy hc h
  cases step_next_cases h with
  | devReset _ ht => simp [ht, State.afterAction]
  | constructs p he _ => exact absurd he (hc p)
  | emits events i _ _ ht =>
    obtain ⟨cfg, mirror, preinit, stale, rsvd, -, outcome, run, modes, port, call, -⟩ :=
      s.afterAction.advance_frame events i
    subst ht
    exact ⟨port, call, cfg, mirror, outcome, preinit, stale, rsvd, run, modes⟩
  | waits _ idle => exact absurd idle busy
  | reserved _ _ idle => exact absurd idle busy
  | request _ _ _ idle => exact absurd idle busy
  | device _ _ _ idle => exact absurd idle busy

/-- Settles O12: `INIT` and the other requests are accepted in `IDLE` only. -/
theorem requestWaitsWhileBusy : Obligations.RequestWaitsWhileBusy := by
  intro i s request busy
  by_cases hn : i = .init
  · subst hn
    obtain ⟨-, hr⟩ | ⟨idle, -⟩ := init_cases (s := s) rfl
    · exact hr
    · exact absurd idle busy
  · obtain ⟨-, hr⟩ | ⟨idle, -⟩ | ⟨idle, -⟩ := request_cases (s := s) request hn rfl
    · exact hr
    · exact absurd idle busy
    · exact absurd idle busy

/-! ## A run to the end of the trace -/

theorem emitAll_setSeq (t : List Beat) (q : Seq) (s : State) :
    t.foldl (fun u beat => u.emit beat) (s.setSeq q) = (t.foldl (fun u beat => u.emit beat) s).setSeq q := by
  induction t generalizing s with
  | nil => rfl
  | cons b rest ih => exact ih (s.emit b)

@[simp] theorem State.complete_setSeq (q : Seq) (s : State) : (s.setSeq q).complete = s.complete := by
  cases h : s.lc <;> simp [State.complete, h, State.setSeq]

theorem State.settled_busy {s : State} {events : List Beat} {i : Nat} (busy : s.seq = .busy events i) :
    s.settled = (events.drop i).foldl (fun u beat => u.emit beat) s := by
  simp [State.settled, busy]

/-- Emitting from a position is emitting the event there and then from the next position. -/
theorem emitAll_drop {events : List Beat} {i : Nat} {beat : Beat} (at_i : events[i]? = some beat) (s : State) :
    (events.drop i).foldl (fun u beat => u.emit beat) s =
      (events.drop (i + 1)).foldl (fun u beat => u.emit beat) (s.emit beat) := by
  obtain ⟨inside, rfl⟩ := List.getElem?_eq_some_iff.mp at_i
  rw [List.drop_eq_getElem_cons inside]
  rfl

/-- A busy sequencer comes to its end in as many steps as events are left: every event emitted, and then the end of the
operation (R45, R95). -/
theorem run_to_end {s : State} {events : List Beat} {i : Nat} (env : s.env = []) (busy : s.seq = .busy events i)
    (inside : i < events.length) : Sys2Proof.core.run (events.length - i) s = .next s.settled.complete := by
  obtain ⟨beat, at_i⟩ : ∃ beat, events[i]? = some beat := ⟨_, List.getElem?_eq_getElem inside⟩
  have here := step_busy env busy
  have ends : s.settled = (events.drop (i + 1)).foldl (fun u beat => u.emit beat) (s.emit beat) := by
    rw [State.settled_busy busy, emitAll_drop at_i]
  rw [show events.length - i = events.length - (i + 1) + 1 by omega, core_run_succ here, ends]
  by_cases more : i + 1 < events.length
  · rw [State.advance_not_last at_i more, run_to_end (by simpa using env) (State.setSeq_seq _ _) more,
      State.settled_busy (State.setSeq_seq _ _), emitAll_setSeq, State.complete_setSeq]
  · have last : i + 1 = events.length := by omega
    rw [State.advance_last at_i last, last, Nat.sub_self, List.drop_length]
    rfl
termination_by events.length - i

theorem State.settled_out (s : State) : s.settled.out = s.out ++ s.pending := emitAll_out _ _

theorem State.settled_latches (s : State) : s.settled.latches = s.pending.foldl Latches.drive s.latches :=
  emitAll_latches _ _

/-- What emitting the rest of a trace leaves alone: everything but the outputs and the nibble phase. -/
theorem State.settled_frame (s : State) :
    s.settled = { s with out := s.settled.out, latches := s.settled.latches, nph := s.settled.nph } :=
  emitAll_frame _ _

/-- Settles O10: the run ends in the settled state, completed. -/
theorem busyRunsToIdle : Obligations.BusyRunsToIdle := by
  intro s events i env busy inside
  have pending : s.pending = (events.drop i).map Beat.event := by simp [State.pending, busy]
  refine ⟨_, run_to_end env busy inside, State.complete_seq _, ?_, ?_, ?_, ?_, ?_, ?_⟩
  · rw [State.complete_out, State.settled_out, pending]
  · rw [State.complete_latches, State.settled_latches, pending]
  all_goals
    simp only [State.complete_mirror, State.complete_cfg, State.complete_port, State.complete_call]
    rw [State.settled_frame]

end Sys2Proof.Machine

/-!
PROOF. Construction (`spec/70_reset_and_hazards.md` R191 to R193): the pins of the roles under both orders of the list,
and the values of the reset table.
-/

namespace Sys2Proof.Machine

/-! ## The pin list -/

@[simp] theorem dataRoles_length (busw : BusWidth) : (dataRoles busw).length = dataPinCount busw := by
  cases busw <;> rfl

theorem dataPinCount_eq (busw : BusWidth) : dataPinCount busw = if busw = .fourBit then 4 else 8 := by
  cases busw <;> rfl

/-- The data pins from the highest line down (D12). -/
def listedPins (p : ConstructionParams) : List PinId :=
  match p.dataPinOrder with
  | .msbFirstList => p.dataPins
  | .lsbFirstList => p.dataPins.reverse

theorem listedPins_length (p : ConstructionParams) : (listedPins p).length = p.dataPins.length := by
  cases h : p.dataPinOrder <;> simp [listedPins, h]

/-- The pins of `RS`, `RW` and `E` stand before those of the data lines (R15). -/
theorem assignPins_eq (p : ConstructionParams) :
    assignPins p =
      (.rs, p.rsPin) :: ((p.rwPin.map (Prod.mk Role.rw)).toList ++
        (.e, p.ePin) :: (dataRoles p.busWidth).zip (listedPins p)) := by
  cases h : p.rwPin <;> simp only [assignPins, listedPins, h] <;> rfl

theorem assignPins_roles {p : ConstructionParams} (len : p.dataPins.length = dataPinCount p.busWidth) :
    (assignPins p).map Prod.fst = wiredRoles p.busWidth p.rwPin.isSome := by
  have zip : ((dataRoles p.busWidth).zip (listedPins p)).map Prod.fst = dataRoles p.busWidth :=
    List.map_fst_zip (by simp [listedPins_length, len])
  cases h : p.rwPin <;> simp [assignPins_eq, wiredRoles, h, zip]

theorem assignPins_rs (p : ConstructionParams) : (assignPins p).lookup .rs = some p.rsPin := by
  simp [assignPins_eq]

theorem lookup_cons_of_ne {role role' : Role} (ne : role ≠ role') (pin : PinId) (rest : List (Role × PinId)) :
    ((role', pin) :: rest).lookup role = rest.lookup role := by
  rw [List.lookup_cons, beq_false_of_ne ne]

theorem dataRoles_eq_map (busw : BusWidth) : ∃ ks : List (Fin 8), dataRoles busw = ks.map .d := by
  cases busw
  · exact ⟨[3, 2, 1, 0], rfl⟩
  · exact ⟨[7, 6, 5, 4, 3, 2, 1, 0], rfl⟩

/-- No data line's pin is looked up for another role. -/
theorem lookup_zip_dataRoles {role : Role} (other : ∀ k, role ≠ .d k) (busw : BusWidth) (pins : List PinId) :
    ((dataRoles busw).zip pins).lookup role = none := by
  rw [List.lookup_eq_none_iff]
  rintro ⟨role', pin⟩ listed
  obtain ⟨ks, data⟩ := dataRoles_eq_map busw
  obtain ⟨k, -, rfl⟩ := List.mem_map.mp (data ▸ (List.of_mem_zip listed).1)
  simpa using other k

theorem assignPins_rw (p : ConstructionParams) : (assignPins p).lookup .rw = p.rwPin := by
  cases h : p.rwPin <;> simp [assignPins_eq, h, lookup_cons_of_ne, lookup_zip_dataRoles]

theorem assignPins_e (p : ConstructionParams) : (assignPins p).lookup .e = some p.ePin := by
  cases h : p.rwPin <;> simp [assignPins_eq, h, lookup_cons_of_ne]

/-- The k-th data line has the k-th pin from the end of the listing that goes from the highest line down. -/
theorem lookup_data (busw : BusWidth) (pins : List PinId) (len : pins.length = dataPinCount busw) (k : Fin 8) :
    ((dataRoles busw).zip pins).lookup (.d k) =
      if pins.length ≤ k then none else pins[pins.length - 1 - k]? := by
  cases busw with
  | fourBit =>
    match pins, len with
    | [_, _, _, _], _ => fin_cases k <;> rfl
  | eightBit =>
    match pins, len with
    | [_, _, _, _, _, _, _, _], _ => fin_cases k <;> rfl

theorem assignPins_data {p : ConstructionParams} (len : p.dataPins.length = dataPinCount p.busWidth) (k : Fin 8) :
    (assignPins p).lookup (.d k) =
      if p.dataPins.length ≤ k then none
      else if p.dataPinOrder = .msbFirstList then p.dataPins[p.dataPins.length - 1 - k]?
      else p.dataPins[(k : Nat)]? := by
  have data : (assignPins p).lookup (.d k) = ((dataRoles p.busWidth).zip (listedPins p)).lookup (.d k) := by
    cases h : p.rwPin <;> simp [assignPins_eq, h, lookup_cons_of_ne]
  rw [data, lookup_data p.busWidth (listedPins p) ((listedPins_length p).trans len), listedPins_length]
  by_cases out : p.dataPins.length ≤ k
  · simp [out]
  · cases h : p.dataPinOrder
    · simp [listedPins, h]
    · have inside : p.dataPins.length - 1 - k < p.dataPins.length := by omega
      have mirror : p.dataPins.length - 1 - (p.dataPins.length - 1 - k) = k := by omega
      simp [out, listedPins, h, List.getElem?_reverse inside, mirror]

/-! ## The row count -/

theorem normaliseRows_eq_one_iff (n : Nat) : normaliseRows n = .one ↔ n = 1 := by
  match n with
  | 0 | 1 | 2 | n + 3 => simp [normaliseRows]

theorem normaliseRows_eq_two_iff (n : Nat) : normaliseRows n = .two ↔ n = 2 := by
  match n with
  | 0 | 1 | 2 | n + 3 => simp [normaliseRows]

/-! ## The block that is built -/

/-- The block that a construction with enough pins gives (R29, R191). -/
def built (p : ConstructionParams) : State :=
  { State.reset with
    cfg :=
      { busw := p.busWidth, rowsRaw := p.rowCount, rows := normaliseRows p.rowCount, cols := p.columns,
        font := p.font, rwWired := p.rwPin.isSome, pins := assignPins p,
        tSettle := p.tSettle, tInit1 := p.tInit1, tInit23 := p.tInit23 }
    modes := (wiredRoles p.busWidth p.rwPin.isSome).map .mode }

theorem construct_eq_built {p : ConstructionParams} (len : p.dataPins.length = dataPinCount p.busWidth) :
    construct p = .ok (built p) := by
  simp only [construct, if_pos len]
  rfl

theorem construct_bad {p : ConstructionParams} (len : p.dataPins.length ≠ dataPinCount p.busWidth) :
    construct p = .error .badConfiguration := by
  simp only [construct, if_neg len]

/-- Everything a construction that succeeds can give. -/
theorem construct_ok {p : ConstructionParams} {s : State} (h : construct p = .ok s) :
    p.dataPins.length = dataPinCount p.busWidth ∧ s = built p := by
  by_cases len : p.dataPins.length = dataPinCount p.busWidth
  · exact ⟨len, Except.ok.inj (h.symm.trans (construct_eq_built len))⟩
  · cases h.symm.trans (construct_bad len)

@[simp] theorem Latches.undriven_level (role : Role) : Latches.undriven.level role = none := by
  cases role <;> simp [Latches.level, Latches.undriven]

/-- Settles O14: the pins by role, and every other field as construction writes it. -/
theorem constructionResult : Obligations.ConstructionResult := by
  intro p
  rw [← dataPinCount_eq]
  refine ⟨fun len => ⟨built p, construct_eq_built len, ?_⟩, construct_bad⟩
  exact ⟨rfl, rfl, rfl, rfl, normaliseRows_eq_one_iff _, normaliseRows_eq_two_iff _, rfl, rfl, rfl, rfl,
    assignPins_roles len, assignPins_rs p, assignPins_rw p, assignPins_e p, assignPins_data len, rfl, rfl,
    Latches.undriven_level, rfl, rfl, rfl, rfl, rfl, rfl, rfl, rfl, rfl, rfl, rfl, rfl, rfl, rfl⟩

/-- Settles O15: both sides evaluate to one state. -/
theorem resetIsConstruction : Obligations.ResetIsConstruction := rfl

end Sys2Proof.Machine

/-!
PROOF. The invariant (`spec/10_state.md` sections 2, 4, 5 and 6): what a trace must be for it, that every operation sends
such a trace, that one event keeps it, that a construction begins with it, and so that every step keeps it.
-/

namespace Sys2Proof.Machine

/-! ## Traces that the invariant admits -/

/-- A trace that drives only wired pins, `RW` never high, and does not leave `E` high (R41, R94). -/
structure Emittable (cfg : Cfg) (t : List Beat) : Prop where
  allowed : ∀ e ∈ t.map Beat.event, allowedEvent cfg e
  endsLow : ∀ l : Latches, l.e ≠ some true → ((t.map Beat.event).foldl Latches.drive l).e ≠ some true

theorem Emittable.nil (cfg : Cfg) : Emittable cfg [] := ⟨by simp, fun _ low => low⟩

theorem Emittable.append {cfg : Cfg} {t u : List Beat} (ht : Emittable cfg t) (hu : Emittable cfg u) :
    Emittable cfg (t ++ u) where
  allowed := by
    simp only [List.map_append, List.mem_append]
    rintro e (he | he)
    · exact ht.allowed e he
    · exact hu.allowed e he
  endsLow l low := by
    rw [List.map_append, List.foldl_append]
    exact hu.endsLow _ (ht.endsLow l low)

theorem ByteTrace.emittable {cfg : Cfg} {P : Bool → Byte → Prop} {t : List Beat} (h : ByteTrace cfg P t) :
    Emittable cfg t := ⟨h.allowed, h.enable⟩

theorem rawTransfer4_emittable {cfg : Cfg} (four : cfg.busw = .fourBit) (n : Nibble) (d : Nat) (settle : PhaseMark) :
    Emittable cfg (rawTransfer4 cfg n d settle) :=
  ⟨pulse_allowed (nibbleLines_wired four n), fun l _ => by simp [rawTransfer4, pulse_enable]⟩

theorem wakeTrace_fourBit {s : State} (four : s.cfg.busw = .fourBit) :
    wakeTrace s = rawTransfer4 s.cfg wakeNibble s.wakeDelay .none := by
  simp only [wakeTrace, four]

theorem wakeTrace_eightBit {s : State} (eight : s.cfg.busw = .eightBit) : wakeTrace s = [] := by
  simp only [wakeTrace, eight]

theorem set4Trace_fourBit {cfg : Cfg} (four : cfg.busw = .fourBit) :
    set4Trace cfg = rawTransfer4 cfg set4Nibble cfg.tSettle .framed := by
  simp only [set4Trace, four]

theorem set4Trace_eightBit {cfg : Cfg} (eight : cfg.busw = .eightBit) : set4Trace cfg = [] := by
  simp only [set4Trace, eight]

theorem initPrefix_fourBit {cfg : Cfg} (four : cfg.busw = .fourBit) :
    initPrefix cfg =
      rawTransfer4 cfg wakeNibble cfg.tInit1 .none ++
      (rawTransfer4 cfg wakeNibble (min cfg.tInit23 cfg.tSettle) .none ++
      (rawTransfer4 cfg wakeNibble (min cfg.tInit23 cfg.tSettle) .none ++
        rawTransfer4 cfg set4Nibble cfg.tSettle .framed)) := by
  simp only [initPrefix, four]

theorem initPrefix_eightBit {cfg : Cfg} (eight : cfg.busw = .eightBit) : initPrefix cfg = [] := by
  simp only [initPrefix, eight]

theorem wakeTrace_emittable (s : State) : Emittable s.cfg (wakeTrace s) := by
  cases h : s.cfg.busw with
  | fourBit => exact wakeTrace_fourBit h ▸ rawTransfer4_emittable h _ _ _
  | eightBit => exact wakeTrace_eightBit h ▸ .nil _

theorem set4Trace_emittable (cfg : Cfg) : Emittable cfg (set4Trace cfg) := by
  cases h : cfg.busw with
  | fourBit => exact set4Trace_fourBit h ▸ rawTransfer4_emittable h _ _ _
  | eightBit => exact set4Trace_eightBit h ▸ .nil _

theorem initPrefix_emittable (cfg : Cfg) : Emittable cfg (initPrefix cfg) := by
  cases h : cfg.busw with
  | fourBit =>
    have raw := rawTransfer4_emittable (cfg := cfg) h
    exact initPrefix_fourBit h ▸ (raw _ _ _).append ((raw _ _ _).append ((raw _ _ _).append (raw _ _ _)))
  | eightBit => exact initPrefix_eightBit h ▸ .nil _

theorem initTrace_emittable (cfg : Cfg) : Emittable cfg (initPrefix cfg ++ initBytes cfg) :=
  (initPrefix_emittable cfg).append (ByteTrace.ofInit cfg).emittable

theorem initBytes_ne_nil (cfg : Cfg) : initBytes cfg ≠ [] := by
  simp [initBytes, transferByte_ne_nil]

theorem Seq.append_idle_initTrace (cfg : Cfg) :
    Seq.idle.append (initPrefix cfg ++ initBytes cfg) = .busy (initPrefix cfg ++ initBytes cfg) 0 :=
  Seq.append_idle_of_ne_nil (by simp [initBytes_ne_nil])

/-! ## The invariant under the shared operations -/

/-- The invariant looks at five fields alone. -/
theorem State.Inv.of_fields {s t : State} (inv : s.Inv) (cfg : t.cfg = s.cfg) (seq : t.seq = s.seq)
    (latches : t.latches = s.latches) (modes : t.modes = s.modes)
    (lc : t.lc = .initialising → t.seq ≠ .idle) : t.Inv where
  positionInTrace := seq ▸ inv.positionInTrace
  initialisingIsBusy := lc
  rowsNormalised := cfg ▸ inv.rowsNormalised
  pinsOfWiredRoles := cfg ▸ inv.pinsOfWiredRoles
  modesOfWiredRoles := by rw [modes, cfg, inv.modesOfWiredRoles]
  pendingAllowed := by
    rw [cfg, State.pending, seq]
    exact inv.pendingAllowed
  unwiredUndriven := by
    rw [cfg, latches]
    exact inv.unwiredUndriven
  readWriteNotHigh := latches ▸ inv.readWriteNotHigh
  enableEndsLow := by
    have := inv.enableEndsLow
    rw [State.settled_latches, State.pending] at this ⊢
    rwa [seq, latches]

/-- The invariant does not look at what is written beside `SEQ`, the configuration, the latches, the modes and `LC`. -/
theorem State.Inv.of_same {s t : State} (inv : s.Inv) (cfg : t.cfg = s.cfg) (seq : t.seq = s.seq)
    (latches : t.latches = s.latches) (modes : t.modes = s.modes) (lc : t.lc = s.lc) : t.Inv :=
  inv.of_fields cfg seq latches modes (by rw [lc, seq]; exact inv.initialisingIsBusy)

theorem Seq.append_idle_position {t events : List Beat} {i : Nat} (h : Seq.idle.append t = .busy events i) :
    i < events.length := by
  cases t with
  | nil => cases h
  | cons b rest =>
    cases h
    exact Nat.succ_pos _

theorem Seq.append_ne_idle {q : Seq} (h : q ≠ .idle) (t : List Beat) : q.append t ≠ .idle := by
  obtain ⟨events, i, rfl⟩ := Seq.exists_busy h
  simp

theorem State.pending_issue {s : State} (inv : s.Inv) (t : List Beat) :
    (s.issue t).pending = s.pending ++ t.map Beat.event := by
  rw [State.pending, State.issue_seq,
    Seq.remaining_append _ _ fun events i h => (inv.positionInTrace events i h).le, List.map_append]
  rfl

/-- A trace that may be emitted may be added to the operation in progress. -/
theorem State.Inv.issue {s : State} (inv : s.Inv) {t : List Beat} (ok : Emittable s.cfg t) : (s.issue t).Inv where
  positionInTrace := by
    intro events i h
    rw [State.issue_seq] at h
    cases hq : s.seq with
    | idle => exact Seq.append_idle_position (hq ▸ h)
    | busy before j =>
      rw [hq] at h
      cases h
      have := inv.positionInTrace before _ hq
      rw [List.length_append]
      omega
  initialisingIsBusy := fun lc => Seq.append_ne_idle (inv.initialisingIsBusy lc) t
  rowsNormalised := inv.rowsNormalised
  pinsOfWiredRoles := inv.pinsOfWiredRoles
  modesOfWiredRoles := inv.modesOfWiredRoles
  pendingAllowed := by
    rw [State.pending_issue inv]
    intro e he
    rcases List.mem_append.mp he with he | he
    · exact inv.pendingAllowed e he
    · exact ok.allowed e he
  unwiredUndriven := inv.unwiredUndriven
  readWriteNotHigh := inv.readWriteNotHigh
  enableEndsLow := by
    have low := inv.enableEndsLow
    rw [State.settled_latches] at low ⊢
    rw [State.pending_issue inv, List.foldl_append]
    exact ok.endsLow _ low

/-! ## One event -/

theorem Latches.level_write (l : Latches) (role role' : Role) (v : Bool) :
    (l.write role v).level role' = if role' = role then some v else l.level role' := by
  cases role <;> cases role' <;> simp [Latches.write, Latches.level, Vector.getElem_set, Fin.ext_iff, eq_comm]

/-- An allowed event drives no unwired role. -/
theorem Latches.drive_undriven {cfg : Cfg} {l : Latches} {e : Event} (ok : allowedEvent cfg e)
    (undriven : ∀ role, role ∉ rolesOf cfg → l.level role = none) :
    ∀ role, role ∉ rolesOf cfg → (l.drive e).level role = none := by
  intro role unwired
  cases e with
  | mode _ => exact absurd ok id
  | sleep _ => exact undriven role unwired
  | pin role' v =>
    have other : role ≠ role' := fun same => unwired (same ▸ ok.1)
    simpa [Latches.drive, Latches.level_write, other] using undriven role unwired

/-- An allowed event does not drive `RW` high. -/
theorem Latches.drive_rw {cfg : Cfg} {l : Latches} {e : Event} (ok : allowedEvent cfg e) (low : l.rw ≠ some true) :
    (l.drive e).rw ≠ some true := by
  cases e with
  | mode _ => exact absurd ok id
  | sleep _ => exact low
  | pin role v =>
    cases role with
    | rw => simp [Latches.drive, Latches.write, ok.2 rfl]
    | rs => exact low
    | e => exact low
    | d k => exact low

/-- What is still to come, one event on. -/
theorem State.pending_of_at {s : State} {events : List Beat} {i : Nat} {beat : Beat} (busy : s.seq = .busy events i)
    (at_i : events[i]? = some beat) : s.pending = beat.event :: (events.drop (i + 1)).map Beat.event := by
  obtain ⟨inside, rfl⟩ := List.getElem?_eq_some_iff.mp at_i
  rw [State.pending, busy, Seq.remaining_busy, List.drop_eq_getElem_cons inside, List.map_cons]

@[simp] theorem State.settled_complete (s : State) : s.complete.settled = s.complete := by
  simp [State.settled]

/-- The outputs that an operation will have led to are the same before and after each of its events. -/
theorem State.advance_settled {s : State} {events : List Beat} {i : Nat} (busy : s.seq = .busy events i) :
    (s.advance events i).settled.out = s.settled.out ∧ (s.advance events i).settled.latches = s.settled.latches ∧
    (s.advance events i).settled.nph = s.settled.nph := by
  rw [State.settled_busy busy]
  obtain ⟨past, h⟩ | ⟨beat, at_i, -, h⟩ | ⟨beat, at_i, last, h⟩ := s.advance_cases events i <;> rw [h]
  · simp [List.drop_eq_nil_of_le past]
  · rw [State.settled_busy (State.setSeq_seq _ _), emitAll_setSeq, emitAll_drop at_i]
    exact ⟨rfl, rfl, rfl⟩
  · simp [emitAll_drop at_i, last]

theorem State.complete_not_initialising (s : State) : s.complete.lc ≠ .initialising := by
  cases h : s.lc <;> simp [State.complete, h]

/-- An event of the trace in progress keeps the invariant. -/
theorem State.Inv.advance {s : State} {events : List Beat} {i : Nat} (inv : s.Inv) (busy : s.seq = .busy events i) :
    (s.advance events i).Inv := by
  have ends := (State.advance_settled busy).2.1
  obtain ⟨past, -⟩ | ⟨beat, at_i, more, h⟩ | ⟨beat, at_i, last, h⟩ := s.advance_cases events i
  · exact absurd (inv.positionInTrace events i busy) (by omega)
  · have pending := State.pending_of_at busy at_i
    have ok : allowedEvent s.cfg beat.event := inv.pendingAllowed _ (by simp [pending])
    rw [h] at ends ⊢
    exact {
      positionInTrace := by
        rintro _ _ ⟨⟩
        exact more
      initialisingIsBusy := by simp
      rowsNormalised := inv.rowsNormalised
      pinsOfWiredRoles := inv.pinsOfWiredRoles
      modesOfWiredRoles := inv.modesOfWiredRoles
      pendingAllowed := fun e he => inv.pendingAllowed e (pending ▸ List.mem_cons_of_mem _ he)
      unwiredUndriven := Latches.drive_undriven ok inv.unwiredUndriven
      readWriteNotHigh := Latches.drive_rw ok inv.readWriteNotHigh
      enableEndsLow := ends ▸ inv.enableEndsLow }
  · have ok : allowedEvent s.cfg beat.event := inv.pendingAllowed _ (by simp [State.pending_of_at busy at_i])
    rw [h] at ends ⊢
    exact {
      positionInTrace := by simp
      initialisingIsBusy := fun lc => absurd lc (State.complete_not_initialising _)
      rowsNormalised := by simpa using inv.rowsNormalised
      pinsOfWiredRoles := by simpa using inv.pinsOfWiredRoles
      modesOfWiredRoles := by simpa using inv.modesOfWiredRoles
      pendingAllowed := by simp [State.pending]
      unwiredUndriven := by simpa using Latches.drive_undriven ok inv.unwiredUndriven
      readWriteNotHigh := by simpa using Latches.drive_rw ok inv.readWriteNotHigh
      enableEndsLow := ends ▸ inv.enableEndsLow }

/-! ## Instructions, construction, steps -/

/-- Every instruction keeps the invariant. -/
theorem exec_keeps_inv {i : Instr} {s t : State} (inv : s.Inv) (h : exec i s = .next t) : t.Inv := by
  cases hi : isRequest i with
  | false =>
    obtain ⟨m, tr, change, hr⟩ | ⟨-, hr⟩ | ⟨-, hr⟩ := encoderRow_cases hi h <;> cases hr
    · have written : (s.setMirror m).Inv := inv.of_same rfl rfl rfl rfl rfl
      exact written.issue change.byteTrace.emittable
    · exact inv.issue (wakeTrace_emittable s)
    · exact inv.issue (set4Trace_emittable s.cfg)
  | true =>
    by_cases hn : i = .init
    · subst hn
      obtain ⟨-, hr⟩ | ⟨idle, hr⟩ := init_cases h <;> cases hr
      · exact inv
      · refine (inv.issue (initTrace_emittable s.cfg)).of_fields rfl ?_ rfl rfl (by simp)
        rw [State.issue_seq, idle, Seq.append_idle_initTrace, State.setSeq_seq]
    · obtain ⟨-, hr⟩ | ⟨idle, m, tr, change, hr⟩ | ⟨-, code, hr⟩ := request_cases hi hn h <;> cases hr
      · exact inv
      · exact (inv.issue change.byteTrace.emittable).of_same rfl (by simp [idle]) rfl rfl rfl
      · exact inv.of_same rfl rfl rfl rfl rfl

/-- A block that is built meets the invariant (R29). -/
theorem inv_built {p : ConstructionParams} (len : p.dataPins.length = dataPinCount p.busWidth) : (built p).Inv where
  positionInTrace := by rintro _ _ ⟨⟩
  initialisingIsBusy := by rintro ⟨⟩
  rowsNormalised := rfl
  pinsOfWiredRoles := assignPins_roles len
  modesOfWiredRoles := rfl
  pendingAllowed := by rintro _ ⟨⟩
  unwiredUndriven := fun role _ => Latches.undriven_level role
  readWriteNotHigh := by rintro ⟨⟩
  enableEndsLow := by rintro ⟨⟩

/-- Settles O54: the cases of a step. -/
theorem stepKeepsInv : Obligations.StepKeepsInv := by
  intro s t inv h
  have rested : s.afterAction.Inv := inv.of_same rfl rfl rfl rfl rfl
  cases step_next_cases h with
  | devReset _ ht => exact ht ▸ rested.of_same rfl rfl rfl rfl rfl
  | constructs p _ hr =>
    obtain ⟨fresh, hc, rfl⟩ := State.reconstruct_ok hr
    obtain ⟨len, rfl⟩ := construct_ok hc
    exact (inv_built len).of_same rfl rfl rfl rfl rfl
  | emits events i _ busy ht => exact ht ▸ rested.advance busy
  | waits _ _ _ _ ht => exact ht ▸ rested
  | reserved rest _ _ _ _ ht => exact ht ▸ rested.of_same rfl rfl rfl rfl rfl
  | request i rest _ _ _ _ ht =>
    have taken : (s.afterAction.setPort rest).Inv := rested.of_same rfl rfl rfl rfl rfl
    exact exec_keeps_inv taken ht
  | device i word _ _ _ _ ht =>
    have taken : s.afterAction.clearCall.Inv := rested.of_same rfl rfl rfl rfl rfl
    exact exec_keeps_inv taken ht

/-- Settles O53: `State.reset` is a block that is built, and has sent nothing. -/
theorem invHoldsAtReset : Obligations.InvHoldsAtReset := by
  refine ⟨?_, ?_, ?_⟩
  · obtain ⟨len, eq⟩ := construct_ok resetIsConstruction
    exact eq ▸ inv_built len
  · rintro ⟨⟩
  · exact ⟨rfl, by rintro _ ⟨⟩, by rintro _ ⟨⟩⟩

end Sys2Proof.Machine

/-!
PROOF. The transfers event by event and as a reader of the bus takes them (`spec/40_bus_transfer.md` R90 to R94,
`spec/20_memory.md` R42 and R44), up to a trace of bytes and the trace of `INIT`.
-/

namespace Sys2Proof.Machine

/-! ## Event by event -/

theorem pulse_events (cfg : Cfg) (rs rw : Bool) (lines : List (Fin 8 × Bool)) (d : Nat) (fall settle : PhaseMark) :
    (pulse cfg rs rw lines d fall settle).map Beat.event =
      [Event.pin .rs rs] ++ (if cfg.rwWired then [Event.pin .rw rw] else []) ++
        (Event.pin .e true ::
          (lines.map (fun line => Event.pin (.d line.1) line.2) ++ [Event.pin .e false, Event.sleep d])) := by
  cases h : cfg.rwWired <;> simp [pulse, h, plain, Function.comp_def]

theorem pulse_length (cfg : Cfg) (rs rw : Bool) (lines : List (Fin 8 × Bool)) (d : Nat) (fall settle : PhaseMark) :
    (pulse cfg rs rw lines d fall settle).length = lines.length + (if cfg.rwWired then 5 else 4) := by
  cases h : cfg.rwWired <;> simp [pulse, h]

/-- Settles O6: both transfers are one pulse, with four lines or eight. -/
theorem transferEvents : Obligations.TransferEvents := by
  intro cfg rs rw n b d
  refine ⟨pulse_events cfg rs rw (nibbleLines n) d _ _, pulse_events cfg rs rw (byteLines b) d _ _, ?_, ?_⟩
  · rw [transfer4, pulse_length]
    split <;> rfl
  · rw [transfer8, pulse_length]
    split <;> rfl

/-! ## The reader of the bus at whole bytes -/

/-- What a reader at a byte boundary, `r`, has become, `after`, once it has taken one byte (R44, R94). -/
structure TookByte (r : BusReader) (rs : Bool) (b : Byte) (after : BusReader) : Prop where
  bytes : after.bytes = r.bytes ++ [(rs, b)]
  boundary : after.half = none
  enableLow : after.lines.e = some false
  registerSelect : after.lines.rs = some rs

theorem Latches.write_e_e (l : Latches) (v : Bool) : (l.write .e v).e = some v := rfl

/-- Two pulses on four lines are one byte, the high half first (R44). -/
theorem BusReader.tookByte_of_nibbles {cfg : Cfg} (four : cfg.busw = .fourBit) (rs rw : Bool) (high low : Nibble)
    (d d' : Nat) (fall fall' settle settle' : PhaseMark) {r : BusReader} (boundary : r.half = none) :
    TookByte r rs (high ++ low) (r.readAll cfg.busw
      ((pulse cfg rs rw (nibbleLines high) d fall settle ++
        pulse cfg rs rw (nibbleLines low) d' fall' settle').map Beat.event)) := by
  rw [List.map_append, BusReader.readAll_append, BusReader.readAll_pulse, BusReader.readAll_pulse]
  simp only [four, BusReader.latch, boundary]
  constructor <;> simp [pulseLatches_nibble, pulseLatches_rs, Latches.write_e_e]

/-- A byte is taken whole, in both bus widths (R92, R94). -/
theorem BusReader.tookByte_transferByte (cfg : Cfg) (rs rw : Bool) (b : Byte) {r : BusReader}
    (boundary : r.half = none) :
    TookByte r rs b (r.readAll cfg.busw ((transferByte cfg rs rw b).map Beat.event)) := by
  cases h : cfg.busw with
  | fourBit =>
    have took := BusReader.tookByte_of_nibbles h rs rw (highNibble b) (lowNibble b) cfg.tSettle cfg.tSettle
      .half .half .none .none boundary
    rw [highNibble_append_lowNibble, h] at took
    rw [transferByte_fourBit h]
    exact took
  | eightBit =>
    rw [transferByte_eightBit h, transfer8, ← h, BusReader.readAll_pulse]
    simp only [h, BusReader.latch]
    constructor <;> simp [pulseLatches_byte, pulseLatches_rs, Latches.write_e_e, boundary]

/-- Settles O8: one byte taken by the reader. -/
theorem deviceReadsTheByteSent : Obligations.DeviceReadsTheByteSent := by
  intro cfg rs b r boundary
  obtain ⟨bytes, half, e, select⟩ := BusReader.tookByte_transferByte cfg rs false b boundary
  exact ⟨bytes, half, e, select⟩

/-! ## The reader at longer traces -/

/-- What a reader at a byte boundary, `r`, has become once it has taken the bytes `bs`, and is at a byte boundary
again. -/
structure TookBytes (r : BusReader) (bs : List (Bool × Byte)) (after : BusReader) : Prop where
  bytes : after.bytes = r.bytes ++ bs
  boundary : after.half = none

theorem TookByte.tookBytes {r after : BusReader} {rs : Bool} {b : Byte} (h : TookByte r rs b after) :
    TookBytes r [(rs, b)] after := ⟨h.bytes, h.boundary⟩

theorem TookBytes.trans {r mid after : BusReader} {bs cs : List (Bool × Byte)} (h : TookBytes r bs mid)
    (h' : TookBytes mid cs after) : TookBytes r (bs ++ cs) after :=
  ⟨by rw [h'.bytes, h.bytes, List.append_assoc], h'.boundary⟩

/-- A trace is read as the bytes `bs` by every reader at a byte boundary. -/
def ReadsAs (cfg : Cfg) (t : List Beat) (bs : List (Bool × Byte)) : Prop :=
  ∀ r : BusReader, r.half = none → TookBytes r bs (r.readAll cfg.busw (t.map Beat.event))

theorem ReadsAs.nil (cfg : Cfg) : ReadsAs cfg [] [] := fun _ boundary => ⟨(List.append_nil _).symm, boundary⟩

theorem ReadsAs.append {cfg : Cfg} {t u : List Beat} {bs cs : List (Bool × Byte)} (ht : ReadsAs cfg t bs)
    (hu : ReadsAs cfg u cs) : ReadsAs cfg (t ++ u) (bs ++ cs) := by
  intro r boundary
  rw [List.map_append, BusReader.readAll_append]
  exact (ht r boundary).trans (hu _ (ht r boundary).boundary)

theorem ReadsAs.byte (cfg : Cfg) (rs : Bool) (b : Byte) : ReadsAs cfg (transferByte cfg rs false b) [(rs, b)] :=
  fun _ boundary => (BusReader.tookByte_transferByte cfg rs false b boundary).tookBytes

/-- A trace of bytes is read as bytes that its predicate lets through. -/
theorem ByteTrace.readsAs {cfg : Cfg} {P : Bool → Byte → Prop} {t : List Beat} (h : ByteTrace cfg P t) :
    ∃ bs, ReadsAs cfg t bs ∧ ∀ x ∈ bs, P x.1 x.2 := by
  induction h with
  | nil => exact ⟨[], .nil cfg, by simp⟩
  | byte rs b ok _ ih =>
    obtain ⟨bs, reads, all⟩ := ih
    refine ⟨(rs, b) :: bs, (ReadsAs.byte cfg rs b).append reads, fun x hx => ?_⟩
    rcases List.mem_cons.mp hx with rfl | hx
    · exact ok
    · exact all x hx
  | delay d _ ih => exact ih

/-- The raw nibbles of `INIT` pair up to 0x33 and 0x32 (R121, R122; log entry 24). -/
theorem initPrefix_readsAs (cfg : Cfg) :
    ReadsAs cfg (initPrefix cfg) (if cfg.busw = .fourBit then [(false, 0x33#8), (false, 0x32#8)] else []) := by
  cases h : cfg.busw with
  | fourBit =>
    intro r boundary
    have pair := fun (low : Nibble) (d d' : Nat) (settle : PhaseMark) (q : BusReader) (at_boundary : q.half = none) =>
      (BusReader.tookByte_of_nibbles h false false wakeNibble low d d' .raw .raw .none settle at_boundary).tookBytes
    rw [initPrefix_fourBit h, ← List.append_assoc, List.map_append, BusReader.readAll_append]
    have first := pair wakeNibble cfg.tInit1 (min cfg.tInit23 cfg.tSettle) .none r boundary
    exact first.trans (pair set4Nibble (min cfg.tInit23 cfg.tSettle) cfg.tSettle .framed _ first.boundary)
  | eightBit => exact initPrefix_eightBit h ▸ .nil cfg

/-- Steps 3 to 6 of `INIT` are read as their four bytes (R123 to R126). -/
theorem initBytes_readsAs (cfg : Cfg) :
    ReadsAs cfg (initBytes cfg)
      [(false, functionSetImage cfg), (false, entryByte true false), (false, clearByte),
        (false, dctrlByte true true false)] := by
  have byte := ReadsAs.byte cfg false
  exact (byte _).append ((byte _).append ((byte _).append (byte _)))

end Sys2Proof.Machine

/-!
PROOF. Which instructions stand where (`spec/30_encoding.md` R60, R68, R76): the port gives requests alone, the encoder
level none, and a raw nibble's instruction a raw nibble alone.
-/

namespace Sys2Proof.Machine

theorem isRequest_of_decodeHead {w : Word} {i : Instr} (h : decodeHead w = .whole i) : isRequest i = true := by
  unfold decodeHead at h
  split at h
  case h_16 => cases h
  all_goals
    dsimp only at h
    split at h <;> cases h <;> rfl

/-- What the port reads as is a request (R68). -/
theorem isRequest_of_decodePort {words rest : List Word} {i : Instr} (h : decodePort words = .request i rest) :
    isRequest i = true := by
  cases words with
  | nil => cases h
  | cons w behind =>
    cases hd : decodeHead w with
    | reserved => simp [decodePort, hd] at h
    | whole j =>
      simp only [decodePort, hd, PortRead.request.injEq] at h
      exact h.1 ▸ isRequest_of_decodeHead hd
    | string len =>
      simp only [decodePort, hd] at h
      split at h
      · cases h
      · split at h <;> cases h
        rfl

/-- An instruction byte is no request and no raw nibble (R61). -/
theorem decodeIr8_row {b : Byte} {i : Instr} (h : decodeIr8 b = some i) :
    isRequest i = false ∧ i ≠ .wake ∧ i ≠ .set4 := by
  unfold decodeIr8 at h
  split_ifs at h <;> cases h <;> simp [isRequest]

theorem isRequest_of_decodeRaw4 {n : Nibble} {i : Instr} (h : decodeRaw4 n = some i) : isRequest i = false := by
  unfold decodeRaw4 at h
  split_ifs at h <;> cases h <;> rfl

/-- What the encoder level reads as is no request, and a raw nibble's instruction only for a raw nibble (R76). -/
theorem decodeDevice_row {word : DeviceWord} {i : Instr} (h : decodeDevice word = some i) :
    isRequest i = false ∧ (i = .wake ∨ i = .set4 → ∃ n, word = .raw4 n) := by
  cases word with
  | strw w =>
    obtain ⟨c, -, rfl⟩ := Option.map_eq_some_iff.mp h
    exact ⟨rfl, by simp⟩
  | ir8 b =>
    obtain ⟨row, noWake, noSet4⟩ := decodeIr8_row h
    exact ⟨row, by simp [noWake, noSet4]⟩
  | dr8 b =>
    cases h
    exact ⟨rfl, by simp⟩
  | raw4 n =>
    exact ⟨isRequest_of_decodeRaw4 h, fun _ => ⟨n, rfl⟩⟩

end Sys2Proof.Machine

/-!
PROOF. The nibble phase over a step (`spec/10_state.md` R26, `spec/20_memory.md` R44, `spec/42_init_sequence.md` R122):
whole bytes leave it, an `INIT` makes it high, a raw nibble by itself or a device reset makes it high or unknown.
-/

namespace Sys2Proof.Machine

/-! ## Traces -/

/-- The nibble phase at the end of `INIT` step 2, and of the raw nibble `SET4` by itself (R122). -/
def phaseAfterSet4 (s : State) : NibblePhase :=
  if s.lc = .initialising ∧ s.devResetSeen = false then .high else .unknown

theorem phaseAfterSet4_ne_low (s : State) : phaseAfterSet4 s ≠ .low := by
  unfold phaseAfterSet4
  split <;> simp

theorem wakeNibble_nph (cfg : Cfg) (d : Nat) (s : State) :
    ((rawTransfer4 cfg wakeNibble d .none).foldl (fun u beat => u.emit beat) s).nph = .unknown :=
  emitAll_pulse_nph cfg false false (nibbleLines wakeNibble) d .raw .none s

theorem set4Nibble_nph (cfg : Cfg) (d : Nat) (s : State) :
    ((rawTransfer4 cfg set4Nibble d .framed).foldl (fun u beat => u.emit beat) s).nph = phaseAfterSet4 s :=
  emitAll_pulse_nph cfg false false (nibbleLines set4Nibble) d .raw .framed s

theorem initPrefix_nph {cfg : Cfg} (four : cfg.busw = .fourBit) (s : State) :
    ((initPrefix cfg).foldl (fun u beat => u.emit beat) s).nph = phaseAfterSet4 s := by
  rw [initPrefix_fourBit four, List.foldl_append, List.foldl_append, List.foldl_append, set4Nibble_nph]
  simp only [phaseAfterSet4, emitAll_lc, emitAll_devResetSeen]

/-- The nibble phase after the whole trace of `INIT`: the last four transfers are whole bytes. -/
theorem initTrace_nph (cfg : Cfg) (s : State) :
    ((initPrefix cfg ++ initBytes cfg).foldl (fun u beat => u.emit beat) s).nph =
      if cfg.busw = .fourBit then phaseAfterSet4 s else s.nph := by
  rw [List.foldl_append, (ByteTrace.ofInit cfg).nph]
  cases h : cfg.busw with
  | fourBit => simp [initPrefix_nph h]
  | eightBit => simp [initPrefix_eightBit h]

/-- Once a device reset has been seen, an unknown nibble phase stays so until another `INIT` (R184). -/
theorem emitAll_nph_unknown (t : List Beat) {s : State} (seen : s.devResetSeen = true) (unknown : s.nph = .unknown) :
    (t.foldl (fun u beat => u.emit beat) s).nph = .unknown := by
  induction t generalizing s with
  | nil => exact unknown
  | cons b rest ih =>
    refine ih seen ?_
    cases hb : b.mark <;> simp [State.phaseAfter, hb, unknown, seen]

/-! ## Instructions on an idle sequencer -/

theorem State.settled_idle {s : State} (idle : s.seq = .idle) : s.settled = s := by
  simp [State.settled, idle]

/-- The nibble phase once a trace given to an idle sequencer is out. -/
theorem State.settled_nph_of_trace {s : State} {t : List Beat} (h : s.seq = Seq.idle.append t) :
    s.settled.nph = (t.foldl (fun u beat => u.emit beat) s).nph := by
  simp [State.settled, h]

/-- What an instruction taken by an idle sequencer makes of the nibble phase. -/
theorem exec_idle_phase {i : Instr} {s t : State} (idle : s.seq = .idle) (h : exec i s = .next t) :
    t.settled.nph = s.nph ∨ t.settled.nph = .high ∨ ((i = .wake ∨ i = .set4) ∧ t.settled.nph ≠ .low) := by
  cases hi : isRequest i with
  | false =>
    obtain ⟨m, tr, change, hr⟩ | ⟨wake, hr⟩ | ⟨set4, hr⟩ := encoderRow_cases hi h <;> cases hr <;>
      rw [State.settled_nph_of_trace (by rw [State.issue_seq]; exact congrArg (Seq.append _) idle)]
    · exact .inl (change.byteTrace.nph _)
    · cases hb : s.cfg.busw with
      | fourBit =>
        rw [wakeTrace_fourBit hb, wakeNibble_nph]
        exact .inr (.inr ⟨.inl wake, by simp⟩)
      | eightBit =>
        rw [wakeTrace_eightBit hb]
        exact .inl rfl
    · cases hb : s.cfg.busw with
      | fourBit =>
        rw [set4Trace_fourBit hb, set4Nibble_nph]
        exact .inr (.inr ⟨.inr set4, phaseAfterSet4_ne_low _⟩)
      | eightBit =>
        rw [set4Trace_eightBit hb]
        exact .inl rfl
  | true =>
    by_cases hn : i = .init
    · subst hn
      obtain ⟨-, hr⟩ | ⟨-, hr⟩ := init_cases h <;> cases hr
      · exact .inl (by rw [State.settled_idle idle])
      · rw [State.settled_nph_of_trace (Seq.append_idle_initTrace s.cfg).symm, initTrace_nph]
        split
        · exact .inr (.inl rfl)
        · exact .inl rfl
    · obtain ⟨-, hr⟩ | ⟨-, m, tr, change, hr⟩ | ⟨-, code, hr⟩ := request_cases hi hn h <;> cases hr
      · exact .inl (by rw [State.settled_idle idle])
      · rw [State.settled_nph_of_trace (State.setSeq_seq _ _)]
        exact .inl (change.byteTrace.nph _)
      · exact .inl (by simp [State.settled, idle])

/-! ## Steps -/

theorem State.afterAction_settled_nph (s : State) : s.afterAction.settled.nph = s.settled.nph :=
  emitAll_nph_congr s.seq.remaining rfl rfl rfl

/-- What a step that is no construction makes of the nibble phase there will be once the trace is out. -/
theorem step_settled_phase {s t : State} (hc : s.noConstruct) (h : step s = .next t) :
    t.settled.nph = s.settled.nph ∨ t.settled.nph = .high ∨
      (¬ (s.noDevReset ∧ s.noRawCall) ∧ t.settled.nph ≠ .low) := by
  cases step_next_cases h with
  | devReset he ht =>
    have unknown : t.settled.nph = .unknown := ht ▸ emitAll_nph_unknown _ rfl rfl
    exact .inr (.inr ⟨fun quiet => quiet.1 he, by simp [unknown]⟩)
  | constructs p he _ => exact absurd he (hc p)
  | emits events i _ busy ht =>
    subst ht
    exact .inl ((State.advance_settled (s := s.afterAction) busy).2.2.trans s.afterAction_settled_nph)
  | waits _ _ _ _ ht => exact .inl (ht ▸ s.afterAction_settled_nph)
  | reserved rest _ idle _ _ ht =>
    subst ht
    exact .inl (by simp [State.settled, State.afterAction, idle])
  | request i rest _ idle _ read ht =>
    rw [State.settled_idle idle]
    obtain same | high | ⟨raw, -⟩ := exec_idle_phase (s := s.afterAction.setPort rest) idle ht
    · exact .inl same
    · exact .inr (.inl high)
    · have request := isRequest_of_decodePort read
      rcases raw with rfl | rfl <;> cases request
  | device i word _ idle called read ht =>
    rw [State.settled_idle idle]
    obtain same | high | ⟨raw, notLow⟩ := exec_idle_phase (s := s.afterAction.clearCall) idle ht
    · exact .inl same
    · exact .inr (.inl high)
    · obtain ⟨n, rfl⟩ := (decodeDevice_row read).2 raw
      exact .inr (.inr ⟨fun quiet => quiet.2 n called, notLow⟩)

/-- Settles O55: the phase there will be stays, becomes high, or is not low. -/
theorem stepKeepsFraming : Obligations.StepKeepsFraming := by
  intro s t _ hc framed h
  obtain same | high | ⟨-, notLow⟩ := step_settled_phase hc h
  · rwa [State.framed, same]
  · simp [State.framed, high]
  · exact notLow

/-- Settles O56: without a device reset and a raw nibble by itself the phase there will be stays or becomes high. -/
theorem stepKeepsNibblePhase : Obligations.StepKeepsNibblePhase := by
  intro s t _ _ hc noReset noRaw phase h
  obtain same | high | ⟨disturbed, -⟩ := step_settled_phase hc h
  · exact same.trans phase
  · exact high
  · exact absurd ⟨noReset, noRaw⟩ disturbed

end Sys2Proof.Machine

/-!
PROOF. The mirror against the bytes on the bus (`spec/10_state.md` R19): a byte without mirror flags keeps the agreement,
a mode byte with the mirror's own flags makes it, and so every request and every step keeps it.
-/

namespace Sys2Proof.Machine

/-! ## The last byte of a pattern -/

theorem lastInstruction_append_of_none {mask pattern : Byte} {bs cs : List (Bool × Byte)}
    (none : ∀ x ∈ cs, x.1 = true ∨ x.2 &&& mask ≠ pattern) :
    lastInstruction mask pattern (bs ++ cs) = lastInstruction mask pattern bs := by
  have empty : (cs.filter fun x => !x.1 && decide (x.2 &&& mask = pattern)) = [] := by
    rw [List.filter_eq_nil_iff]
    intro x hx
    rcases none x hx with data | other
    · simp [data]
    · simp [other]
  simp [lastInstruction, empty]

theorem lastInstruction_concat {mask pattern b : Byte} (fits : b &&& mask = pattern) (bs : List (Bool × Byte)) :
    lastInstruction mask pattern (bs ++ [(false, b)]) = some b := by
  simp [lastInstruction, fits]

/-! ## Agreement of a mirror with bytes -/

/-- The last display-control byte and the last entry-mode byte carry the mirror's flags (R19). -/
structure Mirror.Agrees (m : Mirror) (bs : List (Bool × Byte)) : Prop where
  displayControl : ∀ b, m.dcr = some b → lastInstruction 0xF8#8 0x08#8 bs = some b
  entryMode : ∀ b, m.emr = some b → lastInstruction 0xFC#8 0x04#8 bs = some b

theorem dctrlByte_and (d c b : Bool) :
    dctrlByte d c b &&& 0xF8#8 = 0x08#8 ∧ dctrlByte d c b &&& 0xFC#8 ≠ 0x04#8 := by
  revert d c b
  decide

theorem entryByte_and (id s : Bool) :
    entryByte id s &&& 0xFC#8 = 0x04#8 ∧ entryByte id s &&& 0xF8#8 ≠ 0x08#8 := by
  revert id s
  decide

theorem Mirror.Agrees.append_modeless {m : Mirror} {bs cs : List (Bool × Byte)} (h : m.Agrees bs)
    (free : ∀ x ∈ cs, modeless x.1 x.2) : m.Agrees (bs ++ cs) where
  displayControl b hb := by
    rw [lastInstruction_append_of_none fun x hx => (free x hx).imp_right And.left]
    exact h.displayControl b hb
  entryMode b hb := by
    rw [lastInstruction_append_of_none fun x hx => (free x hx).imp_right And.right]
    exact h.entryMode b hb

theorem Mirror.Agrees.append_display {m : Mirror} {bs : List (Bool × Byte)} (h : m.Agrees bs) (d c b : Bool) :
    (m.setDisplay d c b).Agrees (bs ++ [(false, dctrlByte d c b)]) where
  displayControl byte hb := by
    rw [Mirror.dcr_setDisplay] at hb
    rw [lastInstruction_concat (dctrlByte_and d c b).1, hb]
  entryMode byte hb := by
    rw [Mirror.emr_setDisplay] at hb
    rw [lastInstruction_append_of_none (by simp [(dctrlByte_and d c b).2])]
    exact h.entryMode byte hb

theorem Mirror.Agrees.append_entry {m : Mirror} {bs : List (Bool × Byte)} (h : m.Agrees bs) (id s : Bool) :
    (m.setEntry id s).Agrees (bs ++ [(false, entryByte id s)]) where
  displayControl byte hb := by
    rw [Mirror.dcr_setEntry] at hb
    rw [lastInstruction_append_of_none (by simp [(entryByte_and id s).2])]
    exact h.displayControl byte hb
  entryMode byte hb := by
    rw [Mirror.emr_setEntry] at hb
    rw [lastInstruction_concat (entryByte_and id s).1, hb]

/-- The bytes of a mirror change keep the agreement. -/
theorem MirrorChange.agrees {cfg : Cfg} {m m' : Mirror} {t : List Beat} (h : MirrorChange cfg m m' t) :
    ∃ cs, ReadsAs cfg t cs ∧ ∀ bs, m.Agrees bs → m'.Agrees (bs ++ cs) := by
  cases h with
  | none bytes =>
    obtain ⟨cs, reads, free⟩ := bytes.readsAs
    exact ⟨cs, reads, fun bs agrees => agrees.append_modeless free⟩
  | entry id s => exact ⟨_, .byte _ _ _, fun bs agrees => agrees.append_entry id s⟩
  | display d c b => exact ⟨_, .byte _ _ _, fun bs agrees => agrees.append_display d c b⟩

/-- The bytes of `INIT` keep the agreement: the raw nibbles pair up to bytes without flags, then function set, entry
mode, clear and display control (R120, R19). -/
theorem initTrace_agrees (cfg : Cfg) (m : Mirror) :
    ∃ cs, ReadsAs cfg (initPrefix cfg ++ initBytes cfg) cs ∧ ∀ bs, m.Agrees bs → initMirror.Agrees (bs ++ cs) := by
  refine ⟨_, (initPrefix_readsAs cfg).append (initBytes_readsAs cfg), fun bs agrees => ?_⟩
  have woken := agrees.append_modeless (cs := if cfg.busw = .fourBit then [(false, 0x33#8), (false, 0x32#8)] else [])
    (by split <;> simp [modeless])
  have functionSet := woken.append_modeless (cs := [(false, functionSetImage cfg)])
    (by simpa [functionSetImage] using modeless_fsetByte _ _ _)
  have clear := (functionSet.append_entry true false).append_modeless (cs := [(false, clearByte)])
    (by simp [modeless, clearByte])
  have display := clear.append_display true true false
  simp only [List.append_assoc] at display
  exact display

/-! ## The reader of everything a state has sent and will send -/

/-- A reader that started with the output trace, once the trace in progress is out. -/
def State.heard (s : State) : BusReader := BusReader.start.readAll s.cfg.busw (s.out ++ s.pending)

theorem State.mirrorAgrees_iff (s : State) : s.mirrorAgrees ↔ s.heard.half = none ∧ s.mirror.Agrees s.heard.bytes :=
  ⟨fun ⟨boundary, display, entry⟩ => ⟨boundary, display, entry⟩,
    fun ⟨boundary, display, entry⟩ => ⟨boundary, display, entry⟩⟩

/-- The agreement looks at the mirror and at what is heard alone. -/
theorem State.mirrorAgrees.of_fields {s t : State} (h : s.mirrorAgrees) (mirror : t.mirror = s.mirror)
    (cfg : t.cfg = s.cfg) (sent : t.settled.out = s.settled.out) : t.mirrorAgrees := by
  have heard : t.heard = s.heard := by
    rw [State.heard, State.heard, cfg, ← State.settled_out, ← State.settled_out, sent]
  rw [State.mirrorAgrees_iff] at h ⊢
  rwa [mirror, heard]

/-- What is heard once an idle sequencer has been given a trace. -/
theorem State.heard_of_trace {s t : State} {tr : List Beat} (idle : s.seq = .idle) (cfg : t.cfg = s.cfg)
    (out : t.out = s.out) (seq : t.seq = Seq.idle.append tr) :
    t.heard = s.heard.readAll s.cfg.busw (tr.map Beat.event) := by
  simp [State.heard, State.pending, cfg, out, seq, idle, BusReader.readAll_append]

/-- A trace whose bytes keep the agreement, given to an idle sequencer, keeps it. -/
theorem State.mirrorAgrees.of_trace {s t : State} {tr : List Beat} {cs : List (Bool × Byte)} (h : s.mirrorAgrees)
    (idle : s.seq = .idle) (cfg : t.cfg = s.cfg) (out : t.out = s.out) (seq : t.seq = Seq.idle.append tr)
    (reads : ReadsAs s.cfg tr cs) (keeps : ∀ bs, s.mirror.Agrees bs → t.mirror.Agrees (bs ++ cs)) :
    t.mirrorAgrees := by
  rw [State.mirrorAgrees_iff] at h ⊢
  obtain ⟨boundary, agrees⟩ := h
  obtain ⟨bytes, boundary'⟩ := reads s.heard boundary
  rw [State.heard_of_trace idle cfg out seq, bytes]
  exact ⟨boundary', keeps _ agrees⟩

/-- A request keeps the agreement. -/
theorem exec_request_keeps_mirrorAgrees {i : Instr} {s t : State} (agrees : s.mirrorAgrees) (hi : isRequest i = true)
    (h : exec i s = .next t) : t.mirrorAgrees := by
  by_cases hn : i = .init
  · subst hn
    obtain ⟨-, hr⟩ | ⟨idle, hr⟩ := init_cases h <;> cases hr
    · exact agrees
    · obtain ⟨cs, reads, keeps⟩ := initTrace_agrees s.cfg s.mirror
      exact agrees.of_trace idle rfl rfl (Seq.append_idle_initTrace s.cfg).symm reads keeps
  · obtain ⟨-, hr⟩ | ⟨idle, m, tr, change, hr⟩ | ⟨idle, code, hr⟩ := request_cases hi hn h <;> cases hr
    · exact agrees
    · obtain ⟨cs, reads, keeps⟩ := change.agrees
      exact agrees.of_trace idle rfl rfl rfl reads keeps
    · refine agrees.of_fields rfl rfl ?_
      rw [State.settled_out, State.settled_out]
      rfl

/-- Settles O57: the events of a trace move from what is to come to what is sent, and an idle sequencer takes requests
alone. -/
theorem stepKeepsMirrorAgreement : Obligations.StepKeepsMirrorAgreement := by
  intro s t _ hc call agrees h
  have sent : ∀ u : State, u.out = s.out → u.seq = s.seq → u.settled.out = s.settled.out := fun u out seq => by
    rw [State.settled_out, State.settled_out, State.pending, State.pending, out, seq]
  cases step_next_cases h with
  | devReset _ ht => exact ht ▸ agrees.of_fields rfl rfl (sent _ rfl rfl)
  | constructs p he _ => exact absurd he (hc p)
  | emits events i _ busy ht =>
    subst ht
    have frame := s.afterAction.advance_frame events i
    have out := (State.advance_settled (s := s.afterAction) busy).1
    exact agrees.of_fields frame.2.1 frame.1 (out.trans (sent _ rfl rfl))
  | waits _ _ _ _ ht => exact ht ▸ agrees.of_fields rfl rfl (sent _ rfl rfl)
  | reserved rest _ _ _ _ ht => exact ht ▸ agrees.of_fields rfl rfl (sent _ rfl rfl)
  | request i rest _ _ _ read ht =>
    have taken : (s.afterAction.setPort rest).mirrorAgrees := agrees.of_fields rfl rfl (sent _ rfl rfl)
    exact exec_request_keeps_mirrorAgrees taken (isRequest_of_decodePort read) ht
  | device i word _ _ called => cases called.symm.trans call

end Sys2Proof.Machine

/-!
PROOF. The address calculator's bounds (`spec/43_addressing.md` R133, R135): where there is an address, how large it is,
how it grows with the column, and that the rows of a geometry do not overlap.
-/

namespace Sys2Proof.Machine

theorem one_le_columnLimit (rows : Rows) : 1 ≤ columnLimit rows := by
  cases rows <;> decide

/-- There is no address exactly outside the domain (R133). -/
theorem computeDDRAMAddress_eq_none_iff (rows : Rows) (row column : Nat) :
    computeDDRAMAddress rows row column = none ↔ row = 0 ∨ rowCount rows < row ∨ column = 0 := by
  by_cases outside : row = 0 ∨ rowCount rows < row ∨ column = 0
  · simp [computeDDRAMAddress, outside]
  · have inside := computeDDRAMAddress_of_domain (rows := rows) (row := row) (column := column)
      (by omega) (by omega) (by omega)
    simp [inside, outside]

/-- An address is the formula's, and its row and column are in the domain (R130, R133). -/
theorem computeDDRAMAddress_eq_some_iff (rows : Rows) (row column address : Nat) :
    computeDDRAMAddress rows row column = some address ↔
      (1 ≤ row ∧ row ≤ rowCount rows ∧ 1 ≤ column) ∧
        address = (min column (columnLimit rows) - 1) + offsetOfRow row := by
  by_cases outside : row = 0 ∨ rowCount rows < row ∨ column = 0
  · rw [(computeDDRAMAddress_eq_none_iff rows row column).mpr outside]
    have : ¬ (1 ≤ row ∧ row ≤ rowCount rows ∧ 1 ≤ column) := by omega
    simp [this]
  · have inside : 1 ≤ row ∧ row ≤ rowCount rows ∧ 1 ≤ column := by omega
    rw [computeDDRAMAddress_of_domain inside.1 inside.2.1 inside.2.2]
    simp [inside, eq_comm]

/-- The last column of the last row has the largest address (R135). -/
theorem columnLimit_add_offset_le {rows : Rows} {row : Nat} (one_le : 1 ≤ row) (le : row ≤ rowCount rows) :
    (columnLimit rows - 1) + offsetOfRow row ≤ 103 := by
  cases rows <;> simp only [rowCount] at le <;> interval_cases row <;> decide

theorem computeDDRAMAddress_le {rows : Rows} {row column address : Nat}
    (h : computeDDRAMAddress rows row column = some address) : address ≤ 103 := by
  obtain ⟨⟨one_le, le, -⟩, rfl⟩ := (computeDDRAMAddress_eq_some_iff _ _ _ _).mp h
  have last := columnLimit_add_offset_le one_le le
  omega

/-- Settles O31: the formula's bound, its monotony, and the clamp. -/
theorem addressBounds : Obligations.AddressBounds := by
  intro rows row column
  refine ⟨fun address h => ⟨computeDDRAMAddress_le h, ?_, ?_⟩, computeDDRAMAddress_eq_none_iff rows row column⟩
  · intro column' address' le h'
    obtain ⟨-, rfl⟩ := (computeDDRAMAddress_eq_some_iff _ _ _ _).mp h
    obtain ⟨-, rfl⟩ := (computeDDRAMAddress_eq_some_iff _ _ _ _).mp h'
    omega
  · intro clamped
    obtain ⟨⟨one_le, le, -⟩, rfl⟩ := (computeDDRAMAddress_eq_some_iff _ _ _ _).mp h
    rw [computeDDRAMAddress_eq_some_iff, Nat.min_eq_right clamped, Nat.min_self]
    exact ⟨⟨one_le, le, one_le_columnLimit rows⟩, rfl⟩

/-- Each row of a geometry has a stretch of addresses of its own, as long as the clamp (R135). -/
theorem offsetOfRow_add_columnLimit_le {rows : Rows} {row row' : Nat} (one_le : 1 ≤ row) (le : row ≤ rowCount rows)
    (one_le' : 1 ≤ row') (le' : row' ≤ rowCount rows) (ne : row ≠ row') :
    offsetOfRow row + columnLimit rows ≤ offsetOfRow row' ∨ offsetOfRow row' + columnLimit rows ≤ offsetOfRow row := by
  cases rows <;> simp only [rowCount] at le le' <;> interval_cases row <;> interval_cases row' <;>
    revert ne <;> decide

/-- Settles O32: the addresses of two rows stand in stretches that do not meet. -/
theorem rowsDoNotOverlap : Obligations.RowsDoNotOverlap := by
  intro rows row column row' column' address inside inside' h h'
  obtain ⟨⟨one_le, le, one_le_column⟩, rfl⟩ := (computeDDRAMAddress_eq_some_iff _ _ _ _).mp h
  obtain ⟨⟨one_le', le', one_le_column'⟩, same⟩ := (computeDDRAMAddress_eq_some_iff _ _ _ _).mp h'
  have row_eq : row = row' := by
    by_contra ne
    have apart := offsetOfRow_add_columnLimit_le one_le le one_le' le' ne
    omega
  subst row_eq
  exact ⟨rfl, by omega⟩

end Sys2Proof.Machine

/-!
PROOF. Every instruction on an idle sequencer, said once: what it notes, the mirror it leaves, the trace it sends, unless
it is refused (`spec/44_public_ops.md` R141, `spec/60_exceptions.md` R176).
-/

namespace Sys2Proof.Machine

/-! ## What an instruction notes, writes and sends -/

/-- What accepting an instruction writes beside the mirror and `SEQ` (R141, R120; a row below the request level writes
nothing). -/
def noteOf : Instr → State → State
  | .init => State.beginInit
  | .dchr _ _ | .dstr _ | .clr | .home | .scur _ _ | .sdsp _ _ _ | .sent _ _ | .blnk _ | .curs _ | .disp _
  | .scrl _ _ | .scrr _ _ | .curl _ _ | .curr _ _ => State.noteLifecycle
  | .strw _ _ | .clear | .homeByte | .entry _ _ | .dctrl _ _ _ | .shift _ _ | .fset _ _ _ | .sddra _ | .data _ | .wake
  | .set4 => id

/-- The mirror an instruction leaves when it is not refused (R28). -/
def mirrorOf (m : Mirror) : Instr → Mirror
  | .init => initMirror
  | .sdsp on cursor blink => m.setDisplay on cursor blink
  | .sent increment shift => m.setEntry increment shift
  | .blnk on => { m with b := some on }
  | .curs on => { m with c := some on }
  | .disp on => { m with d := some on }
  | .entry id shift => m.setEntry id shift
  | .dctrl d c b => m.setDisplay d c b
  | .dchr _ _ | .dstr _ | .clr | .home | .scur _ _ | .scrl _ _ | .scrr _ _ | .curl _ _ | .curr _ _ | .strw _ _ | .clear
  | .homeByte | .shift _ _ | .fset _ _ _ | .sddra _ | .data _ | .wake | .set4 => m

/-- The byte of `SCUR` (R134). -/
def cursorByte (rows : Rows) (row column : Nat) : Byte :=
  sddraByte (BitVec.ofNat 7 ((min column (columnLimit rows) - 1) + offsetOfRow row))

/-- The trace of a first `WAKE` (R121). -/
def firstWakeTrace (cfg : Cfg) : List Beat :=
  match cfg.busw with
  | .fourBit => rawTransfer4 cfg wakeNibble cfg.tInit1 .none
  | .eightBit => []

/-- The display-control byte of a partial setter, from the mirror after it (R149 to R151). -/
def displayByte (m : Mirror) : Byte := dctrlByte (m.d.getD false) (m.c.getD false) (m.b.getD false)

/-- The trace an instruction gives an idle sequencer when it is not refused; `m` is the mirror after it. -/
def traceOf (cfg : Cfg) (m : Mirror) : Instr → List Beat
  | .init => initPrefix cfg ++ initBytes cfg
  | .dchr kind code | .strw kind code => characterTrace cfg { kind := kind, code := code }
  | .dstr chars => chars.flatMap (characterTrace cfg)
  | .clr | .clear => transferByte cfg false false clearByte
  | .home | .homeByte => transferByte cfg false false homeByteValue
  | .scur row column => transferByte cfg false false (cursorByte cfg.rows row column)
  | .sdsp d c b | .dctrl d c b => transferByte cfg false false (dctrlByte d c b)
  | .sent id shift | .entry id shift => transferByte cfg false false (entryByte id shift)
  | .blnk _ | .curs _ | .disp _ => transferByte cfg false false (displayByte m)
  | .scrl count delay => (List.replicate count (shiftStepTrace cfg true false delay)).flatten
  | .scrr count delay => (List.replicate count (shiftStepTrace cfg true true delay)).flatten
  | .curl count delay => (List.replicate count (shiftStepTrace cfg false false delay)).flatten
  | .curr count delay => (List.replicate count (shiftStepTrace cfg false true delay)).flatten
  | .shift sc rl => transferByte cfg false false (shiftByte sc rl)
  | .fset dl n f => transferByte cfg false false (fsetByte dl n f)
  | .sddra address => transferByte cfg false false (sddraByte address)
  | .data code => transferByte cfg true false code
  | .wake => firstWakeTrace cfg
  | .set4 => set4Trace cfg

/-- The state after an instruction that an idle sequencer performs. -/
def State.performed (i : Instr) (s : State) : State :=
  ((noteOf i s).setMirror (mirrorOf s.mirror i)).setSeq (Seq.idle.append (traceOf s.cfg (mirrorOf s.mirror i) i))

/-! ## The encoder operations on an idle sequencer -/

theorem State.issue_idle {s : State} (idle : s.seq = .idle) (t : List Beat) :
    s.issue t = s.setSeq (Seq.idle.append t) := by
  rw [State.issue, idle]

theorem State.setDisplayControl_idle {s : State} (idle : s.seq = .idle) (d c b : Bool) :
    s.setDisplayControl d c b =
      (s.setMirror (s.mirror.setDisplay d c b)).setSeq
        (Seq.idle.append (transferByte s.cfg false false (dctrlByte d c b))) :=
  State.issue_idle (s := s.setMirror (s.mirror.setDisplay d c b)) idle _

theorem State.setEntryMode_idle {s : State} (idle : s.seq = .idle) (id shift : Bool) :
    s.setEntryMode id shift =
      (s.setMirror (s.mirror.setEntry id shift)).setSeq
        (Seq.idle.append (transferByte s.cfg false false (entryByte id shift))) :=
  State.issue_idle (s := s.setMirror (s.mirror.setEntry id shift)) idle _

/-- A partial setter's own transfer, where the flags it resends hold values (R149 to R151). -/
theorem State.setDisplayControl_of_mirror {s : State} (idle : s.seq = .idle) {m : Mirror} {d c b : Bool}
    (written : m = s.mirror.setDisplay d c b) :
    s.setDisplayControl d c b =
      (s.setMirror m).setSeq (Seq.idle.append (transferByte s.cfg false false (displayByte m))) := by
  subst written
  exact State.setDisplayControl_idle idle d c b

theorem wakeTrace_idle {s : State} (idle : s.seq = .idle) : wakeTrace s = firstWakeTrace s.cfg := by
  cases h : s.cfg.busw <;> simp only [wakeTrace, firstWakeTrace, State.wakeDelay, idle, h]

/-! ## The partial setters -/

theorem State.blink_written {s : State} {d c : Bool} (hd : s.mirror.d = some d) (hc : s.mirror.c = some c) (on : Bool) :
    s.blink on = .ok (s.setDisplayControl d c on) := by
  simp only [State.blink, hd, hc]

theorem State.cursor_written {s : State} {d b : Bool} (hd : s.mirror.d = some d) (hb : s.mirror.b = some b)
    (on : Bool) : s.cursor on = .ok (s.setDisplayControl d on b) := by
  simp only [State.cursor, hd, hb]

theorem State.display_written {s : State} {c b : Bool} (hc : s.mirror.c = some c) (hb : s.mirror.b = some b)
    (on : Bool) : s.display on = .ok (s.setDisplayControl on c b) := by
  simp only [State.display, hc, hb]

theorem State.blink_unwritten {s : State} (h : s.mirror.d = none ∨ s.mirror.c = none) (on : Bool) :
    s.blink on = .error .mirrorUnwritten := by
  unfold State.blink
  split
  · next hd hc => simp [hd, hc] at h
  · rfl

theorem State.cursor_unwritten {s : State} (h : s.mirror.d = none ∨ s.mirror.b = none) (on : Bool) :
    s.cursor on = .error .mirrorUnwritten := by
  unfold State.cursor
  split
  · next hd hb => simp [hd, hb] at h
  · rfl

theorem State.display_unwritten {s : State} (h : s.mirror.c = none ∨ s.mirror.b = none) (on : Bool) :
    s.display on = .error .mirrorUnwritten := by
  unfold State.display
  split
  · next hc hb => simp [hc, hb] at h
  · rfl

/-- Where neither of two flags is unwritten both hold values. -/
theorem both_written {x y : Option Bool} (h : ¬ (x = none ∨ y = none)) : (∃ a, x = some a) ∧ ∃ b, y = some b := by
  rw [not_or, ← ne_eq, ← ne_eq, Option.ne_none_iff_exists', Option.ne_none_iff_exists'] at h
  exact h

/-! ## `SCUR` -/

theorem State.setCursor_domain {s : State} {row column : Nat} (one_le_row : 1 ≤ row)
    (row_le : row ≤ rowCount s.cfg.rows) (one_le_column : 1 ≤ column) :
    s.setCursor row column = .ok (s.issue (transferByte s.cfg false false (cursorByte s.cfg.rows row column))) := by
  simp only [State.setCursor, computeDDRAMAddress_of_domain one_le_row row_le one_le_column]
  rfl

theorem State.setCursor_outside {s : State} {row column : Nat}
    (outside : row = 0 ∨ rowCount s.cfg.rows < row ∨ column = 0) :
    s.setCursor row column = .error .outOfDomain := by
  simp only [State.setCursor, (computeDDRAMAddress_eq_none_iff s.cfg.rows row column).mpr outside]

/-! ## Every instruction -/

/-- An instruction that is not refused is performed by an idle sequencer. -/
theorem exec_performed {i : Instr} {s : State} (idle : s.seq = .idle) (accepted : refusalOf s i = none) :
    exec i s = .next (s.performed i) := by
  have issue := State.issue_idle (s := s.noteLifecycle) idle
  cases i with
  | init =>
    rw [exec_init, State.accept_always (f := State.initSequence) idle, State.initSequence_eq s.beginInit idle,
      State.beginInit_cfg, ← Seq.append_idle_initTrace]
    rfl
  | dchr kind code =>
    rw [exec_dchr, State.accept_always idle]
    exact congrArg _ (issue _)
  | dstr chars =>
    rw [exec_dstr, State.accept_always idle]
    exact congrArg _ (issue _)
  | clr =>
    rw [exec_clr, State.accept_always idle]
    exact congrArg _ (issue _)
  | home =>
    rw [exec_home, State.accept_always idle]
    exact congrArg _ (issue _)
  | scur row column =>
    have inside : ¬ (row = 0 ∨ rowCount s.cfg.rows < row ∨ column = 0) := by
      simpa [refusalOf] using accepted
    rw [exec_scur, State.accept_ok idle (State.setCursor_domain (s := s.noteLifecycle) (row := row)
      (column := column) (by omega) (by simp only [State.noteLifecycle_cfg]; omega) (by omega))]
    exact congrArg _ (issue _)
  | sdsp on cursor blink =>
    rw [exec_sdsp, State.accept_always idle]
    exact congrArg _ (State.setDisplayControl_idle (s := s.noteLifecycle) idle on cursor blink)
  | sent increment shift =>
    rw [exec_sent, State.accept_always idle]
    exact congrArg _ (State.setEntryMode_idle (s := s.noteLifecycle) idle increment shift)
  | blnk on =>
    obtain ⟨⟨d, hd⟩, c, hc⟩ := both_written (by simpa [refusalOf] using accepted)
    rw [exec_blnk, State.accept_ok idle (State.blink_written (s := s.noteLifecycle) hd hc on)]
    exact congrArg _ (State.setDisplayControl_of_mirror (s := s.noteLifecycle) idle
      (by simp [mirrorOf, Mirror.setDisplay, hd, hc]))
  | curs on =>
    obtain ⟨⟨d, hd⟩, b, hb⟩ := both_written (by simpa [refusalOf] using accepted)
    rw [exec_curs, State.accept_ok idle (State.cursor_written (s := s.noteLifecycle) hd hb on)]
    exact congrArg _ (State.setDisplayControl_of_mirror (s := s.noteLifecycle) idle
      (by simp [mirrorOf, Mirror.setDisplay, hd, hb]))
  | disp on =>
    obtain ⟨⟨c, hc⟩, b, hb⟩ := both_written (by simpa [refusalOf] using accepted)
    rw [exec_disp, State.accept_ok idle (State.display_written (s := s.noteLifecycle) hc hb on)]
    exact congrArg _ (State.setDisplayControl_of_mirror (s := s.noteLifecycle) idle
      (by simp [mirrorOf, Mirror.setDisplay, hc, hb]))
  | scrl count delay =>
    rw [exec_scrl, State.accept_always idle]
    exact congrArg _ (issue _)
  | scrr count delay =>
    rw [exec_scrr, State.accept_always idle]
    exact congrArg _ (issue _)
  | curl count delay =>
    rw [exec_curl, State.accept_always idle]
    exact congrArg _ (issue _)
  | curr count delay =>
    rw [exec_curr, State.accept_always idle]
    exact congrArg _ (issue _)
  | strw kind code => exact (exec_strw kind code s).trans (congrArg _ (State.issue_idle idle _))
  | clear => exact congrArg _ (State.issue_idle idle _)
  | homeByte => exact congrArg _ (State.issue_idle idle _)
  | entry id shift => exact congrArg _ (State.setEntryMode_idle idle id shift)
  | dctrl d c b => exact congrArg _ (State.setDisplayControl_idle idle d c b)
  | shift sc rl => exact congrArg _ (State.issue_idle idle _)
  | fset dl n f => exact congrArg _ (State.issue_idle idle _)
  | sddra address => exact congrArg _ (State.issue_idle idle _)
  | data code => exact congrArg _ (State.issue_idle idle _)
  | wake =>
    rw [exec_wake, State.sendWake_eq_issue, wakeTrace_idle idle]
    exact congrArg _ (State.issue_idle idle _)
  | set4 =>
    rw [exec_set4, State.sendSet4_eq_issue]
    exact congrArg _ (State.issue_idle idle _)

/-- An instruction that is refused leaves the lifecycle flags noted and the mark of the refusal (R176). -/
theorem exec_refused {i : Instr} {s : State} {code : ReasonCode} (idle : s.seq = .idle)
    (refused : refusalOf s i = some code) : exec i s = .next (s.noteLifecycle.refuse code) := by
  cases i
  case scur row column =>
    obtain ⟨outside, ⟨⟩⟩ := Option.ite_none_right_eq_some.mp refused
    exact State.accept_error idle (State.setCursor_outside (s := s.noteLifecycle) outside)
  case blnk on =>
    obtain ⟨unwritten, ⟨⟩⟩ := Option.ite_none_right_eq_some.mp refused
    exact State.accept_error idle (State.blink_unwritten (s := s.noteLifecycle) unwritten on)
  case curs on =>
    obtain ⟨unwritten, ⟨⟩⟩ := Option.ite_none_right_eq_some.mp refused
    exact State.accept_error idle (State.cursor_unwritten (s := s.noteLifecycle) unwritten on)
  case disp on =>
    obtain ⟨unwritten, ⟨⟩⟩ := Option.ite_none_right_eq_some.mp refused
    exact State.accept_error idle (State.display_unwritten (s := s.noteLifecycle) unwritten on)
  all_goals cases refused

end Sys2Proof.Machine

/-!
PROOF. The requests one by one (`spec/41_command_encoder.md`, `spec/43_addressing.md` R134, `spec/44_public_ops.md` R149 to
R156): the flags and the outcome of an acceptance, and the state each request gives an idle sequencer.
-/

namespace Sys2Proof.Machine

/-! ## Bytes as numbers (R61) -/

theorem entryByte_eq_ofNat (id s : Bool) : entryByte id s = BitVec.ofNat 8 (0x04 + 2 * bit id + bit s) := by
  revert id s
  decide

theorem dctrlByte_eq_ofNat (d c b : Bool) :
    dctrlByte d c b = BitVec.ofNat 8 (0x08 + 4 * bit d + 2 * bit c + bit b) := by
  revert d c b
  decide

theorem shiftByte_eq_ofNat (sc rl : Bool) : shiftByte sc rl = BitVec.ofNat 8 (0x10 + 8 * bit sc + 4 * bit rl) := by
  revert sc rl
  decide

theorem fsetByte_eq_ofNat (dl n f : Bool) :
    fsetByte dl n f = BitVec.ofNat 8 (0x20 + 16 * bit dl + 8 * bit n + 4 * bit f) := by
  revert dl n f
  decide

theorem sddraByte_eq_ofNat (address : BitVec 7) : sddraByte address = BitVec.ofNat 8 (0x80 + address.toNat) := by
  revert address
  decide

/-- The byte of `SCUR` is `0x80` plus the address (R134, R107). -/
theorem cursorByte_eq_ofNat {rows : Rows} {row column : Nat} (one_le : 1 ≤ row) (le : row ≤ rowCount rows) :
    cursorByte rows row column =
      BitVec.ofNat 8 (0x80 + (min column (columnLimit rows) - 1) + offsetOfRow row) := by
  have last := columnLimit_add_offset_le one_le le
  have fits : (min column (columnLimit rows) - 1) + offsetOfRow row < 2 ^ 7 := by omega
  rw [cursorByte, sddraByte_eq_ofNat, BitVec.toNat_ofNat, Nat.mod_eq_of_lt fits, Nat.add_assoc]

/-! ## The state after a performed request -/

theorem noteOf_request {i : Instr} (request : isRequest i = true) (notInit : i ≠ .init) :
    noteOf i = State.noteLifecycle := by
  cases i <;> simp_all [noteOf, isRequest]

theorem State.performed_pending (i : Instr) (s : State) :
    (s.performed i).pending = (traceOf s.cfg (mirrorOf s.mirror i) i).map Beat.event := by
  simp [State.performed, State.pending]

/-- An instruction that sends one byte. -/
theorem State.performed_transfer {i : Instr} {s : State} {rs : Bool} {b : Byte}
    (h : traceOf s.cfg (mirrorOf s.mirror i) i = transferByte s.cfg rs false b) :
    s.performed i =
      ((noteOf i s).setMirror (mirrorOf s.mirror i)).setSeq (.busy (transferByte s.cfg rs false b) 0) := by
  rw [State.performed, h, Seq.append_idle_transferByte]

theorem State.setSeq_idle {s : State} (idle : s.seq = .idle) : s.setSeq .idle = s := by
  rw [← idle]
  rfl

/-! ## Acceptance -/

/-- The outcome of a request that is performed, by the two violations (R141, R172, D31). -/
theorem outcomeOf_violations (s : State) :
    outcomeOf s.violations =
      if s.lc = .preInit then
        (if s.mirrorStale then .performedWithViolation [.preInitCommand, .staleMirror]
         else .performedWithViolation [.preInitCommand])
      else if s.mirrorStale then .performedWithViolation [.staleMirror] else .performed := by
  by_cases before : s.lc = .preInit <;> cases stale : s.mirrorStale <;>
    simp [State.violations, before, stale, outcomeOf]

/-- Settles O22: the request is performed or refused. -/
theorem lifecycleFlagsOnAcceptance : Obligations.LifecycleFlagsOnAcceptance := by
  intro i s request notInit idle
  cases refused : refusalOf s i with
  | none =>
    refine ⟨_, exec_performed idle refused, ?_⟩
    simp [State.performed, noteOf_request request notInit, outcomeOf_violations]
  | some code =>
    refine ⟨_, exec_refused idle refused, ?_⟩
    simp [State.pending, idle]

/-! ## Clear, home, entry mode, display control -/

/-- Settles O23: each sends its one byte. -/
theorem clearAndHomeResult : Obligations.ClearAndHomeResult := by
  intro s idle
  constructor
  · exact (exec_performed idle rfl).trans (congrArg _ (State.performed_transfer rfl))
  · exact (exec_performed idle rfl).trans (congrArg _ (State.performed_transfer rfl))

/-- The word of `SENT` (R69). -/
theorem sentWord_eq (increment shift : Bool) :
    BitVec.ofNat 32 (0x70000000 + 2 * bit increment + bit shift) =
      requestWord 0x7#4 0#12 (0#14 ++ BitVec.ofBool increment ++ BitVec.ofBool shift) := by
  revert increment shift
  decide

/-- The word of `SDSP` (R69). -/
theorem sdspWord_eq (on cursor blink : Bool) :
    BitVec.ofNat 32 (0x60000000 + 4 * bit on + 2 * bit cursor + bit blink) =
      requestWord 0x6#4 0#12 (0#13 ++ BitVec.ofBool on ++ BitVec.ofBool cursor ++ BitVec.ofBool blink) := by
  revert on cursor blink
  decide

/-- Settles O24: the word by its row, the byte by its pattern. -/
theorem entryModeResult : Obligations.EntryModeResult := by
  intro increment shift
  refine ⟨fun rest => ?_, fun s idle => ⟨_, exec_performed idle rfl, ?_, rfl, rfl, rfl, rfl, rfl⟩⟩
  · rw [sentWord_eq]
    exact decodePort_of_whole (decodeHead_sent increment shift) rest
  · rw [State.performed_pending, ← entryByte_eq_ofNat]
    rfl

/-- Settles O25: the word by its row, the byte by its pattern. -/
theorem displayControlResult : Obligations.DisplayControlResult := by
  intro on cursor blink
  refine ⟨fun rest => ?_, fun s idle => ⟨_, exec_performed idle rfl, ?_, rfl, rfl, rfl, rfl, rfl⟩⟩
  · rw [sdspWord_eq]
    exact decodePort_of_whole (decodeHead_sdsp on cursor blink) rest
  · rw [State.performed_pending, ← dctrlByte_eq_ofNat]
    rfl

/-! ## The partial setters -/

/-- What a partial setter does where the two other flags hold values (R104, R149 to R151). -/
theorem State.setDisplayControl_noted {s : State} (idle : s.seq = .idle) (d c b : Bool) :
    s.noteLifecycle.setDisplayControl d c b = { s.noteLifecycle with
      mirror := { s.mirror with d := some d, c := some c, b := some b },
      seq := .busy (transferByte s.cfg false false (BitVec.ofNat 8 (0x08 + 4 * bit d + 2 * bit c + bit b))) 0 } := by
  rw [State.setDisplayControl_idle (s := s.noteLifecycle) idle, Seq.append_idle_transferByte, dctrlByte_eq_ofNat]
  rfl

/-- Settles O26: the checks let each of the three through. -/
theorem partialSettersKeepTheOthers : Obligations.PartialSettersKeepTheOthers := by
  intro s d c b on idle
  refine ⟨fun hd hc => ?_, fun hd hb => ?_, fun hc hb => ?_⟩
  · rw [exec_blnk, State.accept_ok idle (State.blink_written (s := s.noteLifecycle) hd hc on),
      State.setDisplayControl_noted idle]
  · rw [exec_curs, State.accept_ok idle (State.cursor_written (s := s.noteLifecycle) hd hb on),
      State.setDisplayControl_noted idle]
  · rw [exec_disp, State.accept_ok idle (State.display_written (s := s.noteLifecycle) hc hb on),
      State.setDisplayControl_noted idle]

/-- Settles O27: the checks stop each of the three. -/
theorem partialSettersRefusedUnwritten : Obligations.PartialSettersRefusedUnwritten := by
  intro s on idle
  exact ⟨fun unwritten => exec_refused idle (if_pos unwritten), fun unwritten => exec_refused idle (if_pos unwritten),
    fun unwritten => exec_refused idle (if_pos unwritten)⟩

/-! ## Characters and strings -/

/-- Settles O28: the kinds that are sent and the one that is not. -/
theorem characterResult : Obligations.CharacterResult := by
  intro s code low idle
  refine ⟨?_, ?_, ?_⟩
  · exact (exec_performed idle rfl).trans (congrArg _ (State.performed_transfer rfl))
  · exact (exec_performed idle rfl).trans (congrArg _ (State.performed_transfer rfl))
  · exact (exec_performed idle rfl).trans (congrArg _ (State.setSeq_idle (s := s.noteLifecycle) idle))

/-- The characters of a string that are sent (R108). -/
def sentChars (chars : List StrChar) : List StrChar :=
  chars.filter fun c => decide (c.kind = .code ∨ c.kind = .char)

theorem kindSends_eq (kind : CharKind) : kindSends kind = decide (kind = .code ∨ kind = .char) := by
  cases kind <;> rfl

/-- The trace of a string is that of its sendable characters, one byte each (R109). -/
theorem flatMap_characterTrace (cfg : Cfg) (chars : List StrChar) :
    chars.flatMap (characterTrace cfg) =
      ((sentChars chars).map fun c => transferByte cfg true false c.code).flatten := by
  induction chars with
  | nil => rfl
  | cons c rest ih =>
    rw [List.flatMap_cons, ih, characterTrace, kindSends_eq]
    unfold sentChars
    rw [List.filter_cons]
    split <;> rfl

/-- Settles O29: the trace of the sendable characters, which is empty exactly when there is none. -/
theorem stringSendsCharactersInOrder : Obligations.StringSendsCharactersInOrder := by
  intro s chars idle
  refine (exec_performed idle rfl).trans (congrArg _ ?_)
  change s.noteLifecycle.setSeq (Seq.idle.append (chars.flatMap (characterTrace s.cfg))) =
    s.noteLifecycle.setSeq (if sentChars chars = [] then .idle
      else .busy ((sentChars chars).map fun c => transferByte s.cfg true false c.code).flatten 0)
  rw [flatMap_characterTrace]
  congr 1
  cases sentChars chars with
  | nil => rfl
  | cons c rest => exact Seq.append_idle_of_ne_nil (by simp [transferByte_ne_nil])

/-! ## `SCUR` -/

/-- Settles O33: inside the domain the request is performed, outside it is refused. -/
theorem setCursorResult : Obligations.SetCursorResult := by
  intro s row column idle
  refine ⟨fun one_le_row row_le one_le_column => ?_, fun outside => exec_refused idle (if_pos outside)⟩
  have inside : ¬ (row = 0 ∨ rowCount s.cfg.rows < row ∨ column = 0) := by omega
  rw [exec_performed (i := .scur row column) idle (if_neg inside), ← cursorByte_eq_ofNat one_le_row row_le]
  exact congrArg _ (State.performed_transfer rfl)

/-! ## Shifts -/

theorem shiftStepTrace_eq (cfg : Cfg) (sc rl : Bool) (delay : Nat) :
    shiftStepTrace cfg sc rl delay = shiftStep cfg (shiftByte sc rl) delay := by
  cases delay <;> rfl

/-- A step that is repeated at least once is a trace (R152). -/
theorem Seq.append_idle_replicate {step : List Beat} (ne : step ≠ []) (count : Nat) :
    Seq.idle.append (List.replicate count step).flatten =
      if count = 0 then .idle else .busy (List.replicate count step).flatten 0 := by
  cases count with
  | zero => rfl
  | succ n => exact Seq.append_idle_of_ne_nil (by simp [List.replicate_succ, ne])

theorem Seq.append_idle_shiftSteps (cfg : Cfg) (sc rl : Bool) (count delay : Nat) :
    Seq.idle.append (List.replicate count (shiftStepTrace cfg sc rl delay)).flatten =
      if count = 0 then .idle
      else .busy (List.replicate count (shiftStep cfg (shiftByte sc rl) delay)).flatten 0 := by
  rw [Seq.append_idle_replicate (by simp [shiftStepTrace, transferByte_ne_nil]), shiftStepTrace_eq]

/-- Settles O34: one step per request, repeated. -/
theorem shiftRequestsRepeat : Obligations.ShiftRequestsRepeat := by
  intro s count delay idle
  have steps := fun sc rl => congrArg (State.setSeq · s.noteLifecycle) (Seq.append_idle_shiftSteps s.cfg sc rl count delay)
  refine ⟨?_, ?_, ?_, ?_⟩
  · exact (exec_performed idle rfl).trans (congrArg _ (steps true false))
  · exact (exec_performed idle rfl).trans (congrArg _ (steps true true))
  · exact (exec_performed idle rfl).trans (congrArg _ (steps false false))
  · exact (exec_performed idle rfl).trans (congrArg _ (steps false true))

end Sys2Proof.Machine

/-!
PROOF. `INIT` (`spec/42_init_sequence.md` R120 to R128): the state it gives, its run to the end, and that it is its steps.
-/

namespace Sys2Proof.Machine

/-! ## The state it gives -/

/-- The five flags are written whatever the mirror was, and the trace begins (R120). -/
theorem State.performed_init (s : State) :
    s.performed .init =
      { s with
        seq := .busy (initPrefix s.cfg ++ initBytes s.cfg) 0, lc := .initialising, devResetSeen := false,
        outcome := some .performed, mirror := initMirror } := by
  simp only [State.performed, traceOf, Seq.append_idle_initTrace]
  rfl

theorem rawTransfer4_events (cfg : Cfg) (n : Nibble) (d : Nat) (settle : PhaseMark) :
    (rawTransfer4 cfg n d settle).map Beat.event = rawNibbleEvents cfg n d := by
  rw [rawTransfer4, rawNibbleEvents, transfer4, pulse_events, pulse_events]

theorem functionSetImage_eq (cfg : Cfg) : functionSetImage cfg = functionSetByte cfg := by
  cases hb : cfg.busw <;> cases hr : cfg.rows <;> cases hf : cfg.font <;>
    simp [functionSetImage, functionSetByte, hb, hr, hf, dlBit, nBit, fBit, fsetByte]

/-- Steps 1 and 2 as events (R121, R122; D13, D14). -/
theorem initPrefix_events (cfg : Cfg) :
    (initPrefix cfg).map Beat.event =
      if cfg.busw = .fourBit then
        rawNibbleEvents cfg 0b0011 cfg.tInit1 ++
        rawNibbleEvents cfg 0b0011 (min cfg.tInit23 cfg.tSettle) ++
        rawNibbleEvents cfg 0b0011 (min cfg.tInit23 cfg.tSettle) ++
        rawNibbleEvents cfg 0b0010 cfg.tSettle
      else [] := by
  cases h : cfg.busw with
  | fourBit =>
    rw [initPrefix_fourBit h]
    simp only [List.map_append, rawTransfer4_events, List.append_assoc, if_true]
    rfl
  | eightBit => simp [initPrefix_eightBit h]

/-- Steps 3 to 6 as events (R123 to R126). -/
theorem initBytes_events (cfg : Cfg) :
    (initBytes cfg).map Beat.event =
      ([functionSetByte cfg, 0x06, 0x01, 0x0E].map fun b =>
        (transferByte cfg false false b).map Beat.event).flatten := by
  simp [initBytes, functionSetImage_eq, entryByte, clearByte, dctrlByte]

/-- Settles O35: the state of the one trace, with its events. -/
theorem initResult : Obligations.InitResult := by
  intro s idle
  refine ⟨initPrefix s.cfg ++ initBytes s.cfg, ?_, ?_⟩
  · rw [exec_performed idle rfl, State.performed_init]
    rfl
  · rw [List.map_append, initPrefix_events, initBytes_events]

/-- Settles O42: `INIT` waits, or writes the fields that its acceptance writes. -/
theorem initFrame : Obligations.InitFrame := by
  intro s t h
  obtain ⟨-, hr⟩ | ⟨-, hr⟩ := init_cases h <;> cases hr <;> simp

/-! ## Its run to the end -/

/-- Step 6 ends with `E` low (R94). -/
theorem initTrace_enable (cfg : Cfg) (l : Latches) :
    (((initPrefix cfg ++ initBytes cfg).map Beat.event).foldl Latches.drive l).e = some false := by
  simp [initBytes, List.foldl_append, transferByte_enable]

/-- Settles O36: the run ends in the settled state, completed, and completing ends `INIT`. -/
theorem initRunsToReady : Obligations.InitRunsToReady := by
  intro s u env idle h
  have performed : u = s.performed .init := by
    cases h.symm.trans (exec_performed idle rfl)
    rfl
  rw [State.performed_init] at performed
  have busy : u.seq = .busy (initPrefix s.cfg ++ initBytes s.cfg) 0 := by rw [performed]
  have pending : u.pending = (initPrefix s.cfg ++ initBytes s.cfg).map Beat.event := by
    rw [State.pending, busy, Seq.remaining_busy, List.drop_zero]
  have nonempty : 0 < (initPrefix s.cfg ++ initBytes s.cfg).length :=
    List.length_pos_of_ne_nil (by simp [initBytes_ne_nil])
  have frame := u.settled_frame
  have initialising : u.settled.lc = .initialising := by rw [frame, performed]
  have unseen : u.settled.devResetSeen = false := by rw [frame, performed]
  refine ⟨_, _, run_to_end (by rw [performed, env]) busy nonempty, State.complete_seq _, ?_, ?_, ?_, ?_, ?_, ?_, ?_, ?_,
    ?_⟩
  · rw [State.complete_lc, if_pos initialising]
  · rw [State.complete_mirror, frame, performed]
    rfl
  · rw [State.complete_mirrorStale, if_pos initialising, unseen, Bool.and_false]
  · intro four
    rw [State.complete_nph, State.settled_busy busy, List.drop_zero, initTrace_nph, if_pos four, performed]
    rfl
  · rw [State.complete_latches, State.settled_latches, pending, initTrace_enable]
  · rw [State.complete_violPreinit, frame, performed]
  · rw [State.complete_violStale, frame, performed]
  · rw [State.complete_errRsvd, frame, performed]
  · rw [State.complete_out, State.settled_out, performed]

/-! ## Its steps -/

@[simp] theorem State.sendWake_cfg (s : State) : s.sendWake.cfg = s.cfg := by
  rw [State.sendWake_eq_issue, State.issue_cfg]

@[simp] theorem State.sendSet4_cfg (s : State) : s.sendSet4.cfg = s.cfg := by
  rw [State.sendSet4_eq_issue, State.issue_cfg]

theorem dlBit_eq (busw : BusWidth) : dlBit busw = decide (busw = .eightBit) := by
  cases busw <;> rfl

theorem nBit_eq (rows : Rows) : nBit rows = decide (rows ≠ .one) := by
  cases rows <;> rfl

theorem fBit_eq (font : Font) : fBit font = decide (font = .f5x10) := by
  cases font <;> rfl

/-- The function-set step, with the bits of the configuration it began with. -/
theorem State.functionSet_after_wake (s : State) :
    s.sendWake.sendWake.sendWake.sendSet4.functionSet =
      s.sendWake.sendWake.sendWake.sendSet4.sendFunctionSet (decide (s.cfg.busw = .eightBit))
        (decide (s.cfg.rows ≠ .one)) (decide (s.cfg.font = .f5x10)) := by
  simp only [State.functionSet, State.sendSet4_cfg, State.sendWake_cfg, dlBit_eq, nBit_eq, fBit_eq]

/-- Settles O38: the rows by themselves are the operations that `INIT` performs. -/
theorem initIsItsSteps : Obligations.InitIsItsSteps := by
  intro s idle
  rw [exec_init, State.accept_always (f := State.initSequence) idle, State.initSequence,
    State.functionSet_after_wake]
  rfl

end Sys2Proof.Machine

/-!
PROOF. The rows below the request level (`spec/41_command_encoder.md` R100 to R108, `spec/42_init_sequence.md` R121,
R122) in every state, busy or idle.
-/

namespace Sys2Proof.Machine

/-- Settles O39: each row's arm, with its byte as a number. -/
theorem encoderRowsSendTheirByte : Obligations.EncoderRowsSendTheirByte := by
  intro s x y z address code
  refine ⟨rfl, rfl, ?_, ?_, ?_, ?_, ?_, rfl, ?_, ?_, ?_⟩
  · rw [← entryByte_eq_ofNat]
    rfl
  · rw [← dctrlByte_eq_ofNat]
    rfl
  · rw [← shiftByte_eq_ofNat]
    rfl
  · rw [← fsetByte_eq_ofNat]
    rfl
  · rw [← sddraByte_eq_ofNat]
    rfl
  · rw [exec_strw]
    rfl
  · rw [exec_strw]
    rfl
  · rw [exec_strw]
    exact congrArg _ (State.issue_nil s)

theorem State.wakeDelay_eq (s : State) :
    s.wakeDelay = if s.seq = .idle then s.cfg.tInit1 else min s.cfg.tInit23 s.cfg.tSettle := by
  cases h : s.seq <;> simp [State.wakeDelay, h]

/-- Settles O40: both rows add their trace, which is one raw nibble or nothing. -/
theorem rawNibbleRows : Obligations.RawNibbleRows := by
  intro s
  constructor
  · intro eight
    rw [exec_wake, exec_set4, State.sendWake_eq_issue, State.sendSet4_eq_issue, wakeTrace_eightBit eight,
      set4Trace_eightBit eight, State.issue_nil]
    exact ⟨rfl, rfl⟩
  · intro four
    refine ⟨wakeTrace s, set4Trace s.cfg, congrArg _ s.sendWake_eq_issue, congrArg _ s.sendSet4_eq_issue, ?_, ?_⟩
    · rw [wakeTrace_fourBit four, rawTransfer4_events, State.wakeDelay_eq]
      rfl
    · rw [set4Trace_fourBit four, rawTransfer4_events]
      rfl

/-- The mirror is written by `ENTRY` and `DCTRL` alone (R28). -/
theorem exec_row_keeps_mirror {i : Instr} {s t : State} (row : isRequest i = false) (noEntry : ∀ x y, i ≠ .entry x y)
    (noDctrl : ∀ x y z, i ≠ .dctrl x y z) (h : exec i s = .next t) : t.mirror = s.mirror := by
  cases i
  case strw kind code => cases (exec_strw kind code s).symm.trans h; rfl
  case clear => cases (exec_clear s).symm.trans h; rfl
  case homeByte => cases (exec_homeByte s).symm.trans h; rfl
  case entry id shift => exact absurd rfl (noEntry id shift)
  case dctrl d c b => exact absurd rfl (noDctrl d c b)
  case shift sc rl => cases (exec_shift sc rl s).symm.trans h; rfl
  case fset dl n f => cases (exec_fset dl n f s).symm.trans h; rfl
  case sddra address => cases (exec_sddra address s).symm.trans h; rfl
  case data code => cases (exec_data code s).symm.trans h; rfl
  case wake =>
    cases (exec_wake s).symm.trans h
    rw [State.sendWake_eq_issue, State.issue_mirror]
  case set4 =>
    cases (exec_set4 s).symm.trans h
    rw [State.sendSet4_eq_issue, State.issue_mirror]
  all_goals cases row

/-- Settles O43: a row issues one trace, after at most a write of the mirror. -/
theorem encoderRowFrame : Obligations.EncoderRowFrame := by
  intro i s t row h
  refine ⟨?_, fun noEntry noDctrl => exec_row_keeps_mirror row noEntry noDctrl h⟩
  obtain ⟨m, tr, -, hr⟩ | ⟨-, hr⟩ | ⟨-, hr⟩ := encoderRow_cases row h <;> cases hr <;> rfl

end Sys2Proof.Machine

/-!
PROOF. What holds of every request, instruction or step: what is written and by whom (`spec/10_state.md` R17 to R28), that
nothing stops (`spec/60_exceptions.md` R170), that the sticky flags and a stale mirror stay (R25, R184).
-/

namespace Sys2Proof.Machine

/-! ## Frames of the requests -/

/-- Settles O41: a request waits, is performed or is refused. -/
theorem requestFrame : Obligations.RequestFrame := by
  intro i s t request notInit h
  obtain ⟨-, hr⟩ | ⟨-, m, tr, -, hr⟩ | ⟨-, code, hr⟩ := request_cases request notInit h <;> cases hr <;> simp

/-- An idle sequencer performs an instruction or refuses it (R141, R176). -/
theorem exec_idle_result {i : Instr} {s t : State} (idle : s.seq = .idle) (h : exec i s = .next t) :
    (refusalOf s i = none ∧ t = s.performed i) ∨
    (∃ code, refusalOf s i = some code ∧ t = s.noteLifecycle.refuse code) := by
  cases refused : refusalOf s i with
  | none =>
    cases h.symm.trans (exec_performed idle refused)
    exact .inl ⟨rfl, rfl⟩
  | some code =>
    cases h.symm.trans (exec_refused idle refused)
    exact .inr ⟨code, rfl, rfl⟩

/-- A request leaves the mirror or writes what it writes when it is performed (R28). -/
theorem exec_request_mirror {i : Instr} {s t : State} (request : isRequest i = true) (h : exec i s = .next t) :
    t.mirror = s.mirror ∨ t.mirror = mirrorOf s.mirror i := by
  by_cases idle : s.seq = .idle
  · obtain ⟨-, rfl⟩ | ⟨code, -, rfl⟩ := exec_idle_result idle h
    · exact .inr rfl
    · exact .inl rfl
  · cases h.symm.trans (requestWaitsWhileBusy i s request idle)
    exact .inl rfl

/-- Settles O44: the mirror stays or is the one the request writes, request by request. -/
theorem mirrorWriters : Obligations.MirrorWriters := by
  intro i s t request h
  obtain same | written := exec_request_mirror request h
  · simp [same]
  · rw [written]
    cases i
    case entry id shift => cases request
    case dctrl d c b => cases request
    all_goals simp [mirrorOf, Mirror.setDisplay, Mirror.setEntry]

/-! ## Nothing stops -/

/-- Settles O46: a request waits, is performed or is refused; a row below the request level issues its trace. -/
theorem noInstructionStops : Obligations.NoInstructionStops := by
  intro i s
  cases hi : isRequest i with
  | false =>
    obtain ⟨m, tr, -, hr⟩ | ⟨-, hr⟩ | ⟨-, hr⟩ := encoderRow_cases (s := s) hi rfl <;> exact ⟨_, hr⟩
  | true =>
    by_cases idle : s.seq = .idle
    · cases refused : refusalOf s i with
      | none => exact ⟨_, exec_performed idle refused⟩
      | some code => exact ⟨_, exec_refused idle refused⟩
    · exact ⟨_, requestWaitsWhileBusy i s hi idle⟩

/-- The block's own step answers a next state when nothing stands at the encoder level. -/
theorem blockStep_answers {s : State} (call : s.call = none) : ∃ t, blockStep s = .next t := by
  cases seq : s.seq with
  | busy events i => exact ⟨_, blockStep_busy seq⟩
  | idle =>
    cases read : decodePort s.port with
    | waiting => exact ⟨_, blockStep_waiting seq (State.fetch_waiting call read)⟩
    | reserved rest => exact ⟨_, blockStep_reserved seq (State.fetch_reserved call read)⟩
    | request i rest =>
      rw [blockStep_instr seq (State.fetch_request call read)]
      exact noInstructionStops i _

/-- Settles O47: by what the environment does. -/
theorem noStepStops : Obligations.NoStepStops := by
  intro s call hc
  obtain ⟨-, hb⟩ | ⟨rest, -, hb⟩ | ⟨rest, -, hr⟩ | ⟨p, rest, t, he, -, -⟩ | ⟨p, rest, code, he, -, -⟩ :=
    step_cases (s := s) rfl
  · exact hb ▸ blockStep_answers call
  · exact hb ▸ blockStep_answers (s := s.setEnv rest) call
  · exact ⟨_, hr⟩
  · exact absurd (by simp [he]) (hc p)
  · exact absurd (by simp [he]) (hc p)

/-! ## The sticky flags -/

/-- The flags set in `s` are set in `t` (R25, R176). -/
structure KeepsFlags (s t : State) : Prop where
  preinit : s.violPreinit = true → t.violPreinit = true
  stale : s.violStale = true → t.violStale = true
  rsvd : s.errRsvd = true → t.errRsvd = true
  run : s.refusedRun = true → t.refusedRun = true

/-- No instruction clears a sticky flag. -/
theorem exec_keepsFlags {i : Instr} {s t : State} (h : exec i s = .next t) : KeepsFlags s t := by
  cases hi : isRequest i with
  | false =>
    obtain ⟨m, tr, -, hr⟩ | ⟨-, hr⟩ | ⟨-, hr⟩ := encoderRow_cases hi h <;> cases hr <;> constructor <;> exact id
  | true =>
    by_cases hn : i = .init
    · subst hn
      obtain ⟨-, hr⟩ | ⟨-, hr⟩ := init_cases h <;> cases hr <;> constructor <;> exact id
    · obtain ⟨-, hr⟩ | ⟨-, m, tr, -, hr⟩ | ⟨-, code, hr⟩ := request_cases hi hn h <;> cases hr <;> constructor <;>
        simp +contextual

/-- A step keeps the four flags, or is a construction and keeps the mark of the run (R190; log entry 13). -/
theorem step_keepsFlags {s t : State} (h : step s = .next t) :
    KeepsFlags s t ∨
      (∃ p, s.env.head? = some (.construct p)) ∧ (s.refusedRun = true → t.refusedRun = true) := by
  cases step_next_cases h with
  | devReset _ ht => exact .inl (ht ▸ ⟨id, id, id, id⟩)
  | constructs p he hr =>
    obtain ⟨fresh, -, rfl⟩ := State.reconstruct_ok hr
    exact .inr ⟨⟨p, he⟩, id⟩
  | emits events i _ _ ht =>
    obtain ⟨-, -, preinit, stale, rsvd, -, -, run, -⟩ := s.afterAction.advance_frame events i
    subst ht
    exact .inl ⟨preinit.trans, stale.trans, rsvd.trans, run.trans⟩
  | waits _ _ _ _ ht => exact .inl (ht ▸ ⟨id, id, id, id⟩)
  | reserved rest _ _ _ _ ht => exact .inl (ht ▸ ⟨id, id, fun _ => rfl, fun _ => rfl⟩)
  | request i rest _ _ _ _ ht =>
    obtain ⟨preinit, stale, rsvd, run⟩ := exec_keepsFlags ht
    exact .inl ⟨preinit, stale, rsvd, run⟩
  | device i word _ _ _ _ ht =>
    obtain ⟨preinit, stale, rsvd, run⟩ := exec_keepsFlags ht
    exact .inl ⟨preinit, stale, rsvd, run⟩

/-- Settles O48: a construction keeps the mark of the run alone, every other step all four. -/
theorem stickyFlagsStay : Obligations.StickyFlagsStay := by
  intro s t h
  obtain ⟨preinit, stale, rsvd, run⟩ | ⟨⟨p, he⟩, run⟩ := step_keepsFlags h
  · exact ⟨fun _ => ⟨preinit, stale, rsvd⟩, run⟩
  · exact ⟨fun hc => absurd he (hc p), run⟩

/-! ## A stale mirror -/

/-- What an instruction of an idle sequencer leaves of `LC` and of the two ghosts of a device reset (R24, R184). -/
theorem exec_ghosts {i : Instr} {s t : State} (h : exec i s = .next t) :
    t.mirrorStale = s.mirrorStale ∧ (i ≠ .init → t.lc = s.lc ∧ t.devResetSeen = s.devResetSeen) := by
  cases hi : isRequest i with
  | false =>
    obtain ⟨m, tr, -, hr⟩ | ⟨-, hr⟩ | ⟨-, hr⟩ := encoderRow_cases hi h <;> cases hr <;> simp
  | true =>
    by_cases hn : i = .init
    · subst hn
      obtain ⟨-, hr⟩ | ⟨-, hr⟩ := init_cases h <;> cases hr <;> simp
    · obtain ⟨-, hr⟩ | ⟨-, m, tr, -, hr⟩ | ⟨-, code, hr⟩ := request_cases hi hn h <;> cases hr <;> simp

/-- An event of a trace clears `MIRROR_STALE` exactly when it is the last one of an `INIT` that no device reset has
disturbed (R120, R184); an operation that goes on, or that is no `INIT`, keeps `LC`. -/
theorem State.advance_ghosts {s : State} {events : List Beat} {i : Nat} (stale : s.mirrorStale = true) :
    ((s.advance events i).mirrorStale = true ↔
      ¬ (s.lc = .initialising ∧ s.devResetSeen = false ∧ events.length ≤ i + 1)) ∧
    ((s.advance events i).lc = .initialising → s.lc = .initialising) := by
  obtain ⟨past, h⟩ | ⟨beat, -, more, h⟩ | ⟨beat, -, last, h⟩ := s.advance_cases events i <;> rw [h]
  · have ended : events.length ≤ i + 1 := by omega
    by_cases init : s.lc = .initialising <;> simp [State.complete_mirrorStale, State.complete_lc, init, stale, ended]
  · have goes_on : ¬ events.length ≤ i + 1 := by omega
    simp [stale, goes_on]
  · by_cases init : s.lc = .initialising <;>
      simp [State.complete_mirrorStale, State.complete_lc, init, stale, last.ge]

/-- On an idle sequencer no step ends an `INIT`. -/
theorem State.not_endsUndisturbedInit_of_idle {s : State} (idle : s.seq = .idle) : ¬ s.endsUndisturbedInit := by
  rintro ⟨-, -, -, events, i, busy, -⟩
  cases busy.symm.trans idle

/-- On a busy sequencer the step ends an undisturbed `INIT` exactly when it has no event after it to come. -/
theorem State.endsUndisturbedInit_iff {s : State} {events : List Beat} {i : Nat} (quiet : s.noDevReset)
    (busy : s.seq = .busy events i) :
    s.endsUndisturbedInit ↔ s.lc = .initialising ∧ s.devResetSeen = false ∧ events.length ≤ i + 1 := by
  simp [State.endsUndisturbedInit, quiet, busy]

/-- A step that leaves `MIRROR_STALE`, `LC` and the watch as they were keeps a stale mirror stale. -/
theorem stale_of_same {s t : State} (stale : s.mirrorStale = true) (idle : s.seq = .idle)
    (stale_eq : t.mirrorStale = s.mirrorStale)
    (watch : ¬ s.acceptsInit → t.lc = s.lc ∧ t.devResetSeen = s.devResetSeen) :
    (t.mirrorStale = true ↔ ¬ s.endsUndisturbedInit) ∧
    (¬ s.acceptsInit →
      (s.devResetSeen = true → t.devResetSeen = true) ∧
      ((s.lc = .initialising → s.devResetSeen = true) → t.lc = .initialising → t.devResetSeen = true)) := by
  refine ⟨by simp [stale_eq, stale, State.not_endsUndisturbedInit_of_idle idle], fun other => ?_⟩
  obtain ⟨lc, seen⟩ := watch other
  rw [lc, seen]
  exact ⟨id, id⟩

/-- Settles O37: the cases of a step. -/
theorem deviceResetDuringInitStaysStale : Obligations.DeviceResetDuringInitStaysStale := by
  intro s t stale hc h
  cases step_next_cases h with
  | devReset he ht =>
    subst ht
    have disturbed : ¬ s.endsUndisturbedInit := fun ends => ends.1 he
    simp [disturbed]
  | constructs p he _ => exact absurd he (hc p)
  | emits events i quiet busy ht =>
    subst ht
    have seen := (s.afterAction.advance_frame events i).2.2.2.2.2.1
    obtain ⟨mirror, lc⟩ := State.advance_ghosts (s := s.afterAction) (events := events) (i := i) stale
    rw [State.endsUndisturbedInit_iff quiet busy, seen]
    exact ⟨mirror, fun _ => ⟨id, fun watch initialising => watch (lc initialising)⟩⟩
  | waits _ idle _ _ ht => exact stale_of_same stale idle (ht ▸ rfl) fun _ => ht ▸ ⟨rfl, rfl⟩
  | reserved rest _ idle _ _ ht => exact stale_of_same stale idle (ht ▸ rfl) fun _ => ht ▸ ⟨rfl, rfl⟩
  | request i rest quiet idle call read ht =>
    obtain ⟨mirror, watch⟩ := exec_ghosts ht
    refine stale_of_same stale idle mirror fun other => watch ?_
    rintro rfl
    exact other ⟨quiet, idle, call, rest, read⟩
  | device i word _ idle _ read ht =>
    obtain ⟨mirror, watch⟩ := exec_ghosts ht
    refine stale_of_same stale idle mirror fun _ => watch ?_
    rintro rfl
    cases (decodeDevice_row read).1

end Sys2Proof.Machine

/-!
PROOF. What a request sends: which bytes (`spec/30_encoding.md` R66), how many pulses (`spec/20_memory.md` R44), for how
long (`spec/70_reset_and_hazards.md` R208), and what it depends on (`spec/10_state.md` R28).
-/

namespace Sys2Proof.Machine

/-! ## Which bytes -/

/-- The bytes a request other than `INIT` can send (R66). -/
def permitted (rs : Bool) (b : Byte) : Prop :=
  rs = true ∨ b = 0x01 ∨ b = 0x02 ∨ (0x04 ≤ b ∧ b ≤ 0x0F) ∨ b = 0x10 ∨ b = 0x14 ∨ b = 0x18 ∨ b = 0x1C ∨
    (0x80 ≤ b ∧ b ≤ 0xE7)

theorem permitted_entryByte (id s : Bool) : permitted false (entryByte id s) := by
  cases id <;> cases s <;> simp [permitted, entryByte]

theorem permitted_dctrlByte (d c b : Bool) : permitted false (dctrlByte d c b) := by
  cases d <;> cases c <;> cases b <;> simp [permitted, dctrlByte]

theorem permitted_shiftByte (sc rl : Bool) : permitted false (shiftByte sc rl) := by
  cases sc <;> cases rl <;> simp [permitted, shiftByte]

/-- The byte of `SCUR` lies between `0x80` and `0xE7` (R135). -/
theorem permitted_cursorByte {rows : Rows} {row column : Nat} (one_le : 1 ≤ row) (le : row ≤ rowCount rows) :
    permitted false (cursorByte rows row column) := by
  have last := columnLimit_add_offset_le one_le le
  have address : 0x80 + (min column (columnLimit rows) - 1) + offsetOfRow row ≤ 0xE7 := by omega
  rw [cursorByte_eq_ofNat one_le le]
  refine .inr (.inr (.inr (.inr (.inr (.inr (.inr (.inr ⟨?_, ?_⟩)))))))
  · rw [BitVec.le_def, BitVec.toNat_ofNat, Nat.mod_eq_of_lt (by omega)]
    exact Nat.le_trans (Nat.le_add_right _ _) (Nat.le_add_right _ _)
  · rw [BitVec.le_def, BitVec.toNat_ofNat, Nat.mod_eq_of_lt (by omega)]
    exact address

theorem characterTrace_permitted (cfg : Cfg) (c : StrChar) : ByteTrace cfg permitted (characterTrace cfg c) := by
  unfold characterTrace
  split
  · exact .single (.inl rfl)
  · exact .nil

theorem shiftSteps_permitted (cfg : Cfg) (sc rl : Bool) (count delay : Nat) :
    ByteTrace cfg permitted (List.replicate count (shiftStepTrace cfg sc rl delay)).flatten := by
  refine ByteTrace.flatten fun t ht => (List.mem_replicate.mp ht).2 ▸ ?_
  refine (ByteTrace.single (permitted_shiftByte sc rl)).append ?_
  split
  · exact .delay delay .nil
  · exact .nil

theorem string_permitted (cfg : Cfg) (chars : List StrChar) :
    ByteTrace cfg permitted (chars.flatMap (characterTrace cfg)) := by
  induction chars with
  | nil => exact .nil
  | cons c rest ih => exact (characterTrace_permitted cfg c).append ih

/-- The trace of a request other than `INIT` is made of permitted bytes. -/
theorem traceOf_permitted {i : Instr} {s : State} (request : isRequest i = true) (notInit : i ≠ .init)
    (accepted : refusalOf s i = none) (m : Mirror) : ByteTrace s.cfg permitted (traceOf s.cfg m i) := by
  cases i
  case init => exact absurd rfl notInit
  case dchr kind code => exact characterTrace_permitted _ _
  case dstr chars => exact string_permitted _ _
  case clr => exact .single (.inr (.inl rfl))
  case home => exact .single (.inr (.inr (.inl rfl)))
  case scur row column =>
    have inside : ¬ (row = 0 ∨ rowCount s.cfg.rows < row ∨ column = 0) := by
      simpa [refusalOf] using accepted
    exact .single (permitted_cursorByte (by omega) (by omega))
  case sdsp on cursor blink => exact .single (permitted_dctrlByte _ _ _)
  case sent increment shift => exact .single (permitted_entryByte _ _)
  case blnk on => exact .single (permitted_dctrlByte _ _ _)
  case curs on => exact .single (permitted_dctrlByte _ _ _)
  case disp on => exact .single (permitted_dctrlByte _ _ _)
  case scrl count delay => exact shiftSteps_permitted _ _ _ _ _
  case scrr count delay => exact shiftSteps_permitted _ _ _ _ _
  case curl count delay => exact shiftSteps_permitted _ _ _ _ _
  case curr count delay => exact shiftSteps_permitted _ _ _ _ _
  all_goals cases request

/-- A trace that is read as the bytes `bs` carries those bytes. -/
theorem ReadsAs.bytesOf {cfg : Cfg} {t : List Beat} {bs : List (Bool × Byte)} (h : ReadsAs cfg t bs) :
    bytesOf cfg.busw (t.map Beat.event) = bs := (h BusReader.start rfl).bytes

theorem State.refuse_pending {s : State} (idle : s.seq = .idle) (code : ReasonCode) :
    (s.noteLifecycle.refuse code).pending = [] := by
  simp [State.pending, idle]

/-- Settles O49: a request that is performed sends a trace of permitted bytes, one that is refused none. -/
theorem requestsSendOnlyTheseBytes : Obligations.RequestsSendOnlyTheseBytes := by
  intro i s t request notInit idle h x hx
  obtain ⟨accepted, rfl⟩ | ⟨code, -, rfl⟩ := exec_idle_result idle h
  · obtain ⟨bs, reads, all⟩ := (traceOf_permitted request notInit accepted (mirrorOf s.mirror i)).readsAs
    rw [State.performed_pending, reads.bytesOf] at hx
    exact all x hx
  · rw [State.refuse_pending idle] at hx
    cases hx

/-! ## How many pulses -/

theorem pulseCount_append (t u : List Event) : pulseCount (t ++ u) = pulseCount t + pulseCount u := by
  simp [pulseCount]

theorem rawTransfer4_pulses (cfg : Cfg) (n : Nibble) (d : Nat) (settle : PhaseMark) :
    pulseCount ((rawTransfer4 cfg n d settle).map Beat.event) = 1 :=
  pulse_count cfg false false (nibbleLines n) d .raw settle

theorem initPrefix_pulses (cfg : Cfg) :
    pulseCount ((initPrefix cfg).map Beat.event) = if cfg.busw = .fourBit then 4 else 0 := by
  cases h : cfg.busw with
  | fourBit => simp [initPrefix_fourBit h, pulseCount_append, rawTransfer4_pulses]
  | eightBit => simp [initPrefix_eightBit h, pulseCount]

theorem initBytes_pulses (cfg : Cfg) :
    pulseCount ((initBytes cfg).map Beat.event) = if cfg.busw = .fourBit then 8 else 4 := by
  cases h : cfg.busw <;> simp [initBytes, pulseCount_append, transferByte_pulses, h]

/-- Settles O50: a request other than `INIT` sends whole bytes, `INIT` four raw nibbles in 4-bit mode and four bytes. -/
theorem nibblesPairUp : Obligations.NibblesPairUp := by
  intro i s t request idle h
  have init : i = .init → pulseCount t.pending = if s.cfg.busw = .fourBit then 12 else 4 := by
    rintro rfl
    cases h.symm.trans (exec_performed idle rfl)
    rw [State.performed_pending]
    change pulseCount ((initPrefix s.cfg ++ initBytes s.cfg).map Beat.event) = _
    rw [List.map_append, pulseCount_append, initPrefix_pulses, initBytes_pulses]
    split <;> rfl
  refine ⟨fun four notInit => ?_, fun four hi => by simp [init hi, four], fun eight hi => by simp [init hi, eight]⟩
  obtain ⟨accepted, rfl⟩ | ⟨code, -, rfl⟩ := exec_idle_result idle h
  · rw [State.performed_pending]
    exact (traceOf_permitted request notInit accepted _).pulses_even four
  · rw [State.refuse_pending idle]
    rfl

/-! ## For how long -/

theorem transferByte_time (cfg : Cfg) (rs rw : Bool) (b : Byte) :
    sleepSum ((transferByte cfg rs rw b).map Beat.event) = byteTime cfg := transferByte_sleep cfg rs rw b

theorem rawTransfer4_time (cfg : Cfg) (n : Nibble) (d : Nat) (settle : PhaseMark) :
    sleepSum ((rawTransfer4 cfg n d settle).map Beat.event) = d :=
  pulse_sleep cfg false false (nibbleLines n) d .raw settle

theorem characterTrace_time (cfg : Cfg) (c : StrChar) :
    sleepSum ((characterTrace cfg c).map Beat.event) = if sendable c.kind then byteTime cfg else 0 := by
  rw [characterTrace, kindSends_eq, sendable]
  split
  · exact transferByte_time cfg true false c.code
  · rfl

theorem string_time (cfg : Cfg) (chars : List StrChar) :
    sleepSum ((chars.flatMap (characterTrace cfg)).map Beat.event) =
      (chars.countP fun c => sendable c.kind) * byteTime cfg := by
  induction chars with
  | nil => simp [sleepSum]
  | cons c rest ih =>
    rw [List.flatMap_cons, List.map_append, sleepSum_append, ih, characterTrace_time, List.countP_cons, Nat.add_mul,
      Nat.add_comm]
    split <;> simp

theorem shiftStepTrace_time (cfg : Cfg) (sc rl : Bool) (delay : Nat) :
    sleepSum ((shiftStepTrace cfg sc rl delay).map Beat.event) = byteTime cfg + delay := by
  rw [shiftStepTrace, List.map_append, sleepSum_append, transferByte_time]
  cases delay <;> rfl

theorem replicate_time (step : List Beat) (count : Nat) :
    sleepSum ((List.replicate count step).flatten.map Beat.event) = count * sleepSum (step.map Beat.event) := by
  induction count with
  | zero => simp [sleepSum]
  | succ n ih =>
    rw [List.replicate_succ, List.flatten_cons, List.map_append, sleepSum_append, ih, Nat.succ_mul, Nat.add_comm]

theorem shiftSteps_time (cfg : Cfg) (sc rl : Bool) (count delay : Nat) :
    sleepSum ((List.replicate count (shiftStepTrace cfg sc rl delay)).flatten.map Beat.event) =
      count * (byteTime cfg + delay) := by
  rw [replicate_time, shiftStepTrace_time]

theorem initTrace_time (cfg : Cfg) :
    sleepSum ((initPrefix cfg ++ initBytes cfg).map Beat.event) =
      (if cfg.busw = .fourBit then cfg.tInit1 + 2 * min cfg.tInit23 cfg.tSettle + cfg.tSettle else 0) +
        4 * byteTime cfg := by
  have bytes : sleepSum ((initBytes cfg).map Beat.event) = 4 * byteTime cfg := by
    simp only [initBytes, List.map_append, sleepSum_append, transferByte_time]
    omega
  rw [List.map_append, sleepSum_append, bytes]
  cases h : cfg.busw with
  | fourBit =>
    simp only [initPrefix_fourBit h, List.map_append, sleepSum_append, rawTransfer4_time, if_true]
    omega
  | eightBit => simp [initPrefix_eightBit h, sleepSum]

/-- The trace of a request blocks for the time of its row (R208). -/
theorem traceOf_time {cfg : Cfg} {i : Instr} {time : Nat} (h : blockingTime cfg i = some time) (m : Mirror) :
    sleepSum ((traceOf cfg m i).map Beat.event) = time := by
  cases i <;> cases h
  case init => exact initTrace_time cfg
  case dchr kind code => exact characterTrace_time cfg ⟨kind, code⟩
  case dstr chars => exact string_time cfg chars
  case clr => exact transferByte_time _ _ _ _
  case home => exact transferByte_time _ _ _ _
  case scur row column => exact transferByte_time _ _ _ _
  case sdsp on cursor blink => exact transferByte_time _ _ _ _
  case sent increment shift => exact transferByte_time _ _ _ _
  case blnk on => exact transferByte_time _ _ _ _
  case curs on => exact transferByte_time _ _ _ _
  case disp on => exact transferByte_time _ _ _ _
  case scrl count delay => exact shiftSteps_time _ _ _ _ _
  case scrr count delay => exact shiftSteps_time _ _ _ _ _
  case curl count delay => exact shiftSteps_time _ _ _ _ _
  case curr count delay => exact shiftSteps_time _ _ _ _ _

/-- Settles O51: a request that is performed blocks for its row's time, one that is refused sends nothing. -/
theorem blockingTimes : Obligations.BlockingTimes := by
  intro i s time idle h
  cases refused : refusalOf s i with
  | none =>
    refine ⟨_, exec_performed idle refused, ?_⟩
    rw [State.performed_pending, traceOf_time h]
    rfl
  | some code =>
    refine ⟨_, exec_refused idle refused, ?_⟩
    rw [State.refuse_pending idle]
    rfl

/-! ## What it depends on -/

/-- What an idle sequencer is given is told by the configuration and the mirror, through the refusal and the trace. -/
theorem exec_idle_seq {i : Instr} {s t : State} (idle : s.seq = .idle) (h : exec i s = .next t) :
    t.seq = (if refusalOf s i = none then Seq.idle.append (traceOf s.cfg (mirrorOf s.mirror i) i) else .idle) ∧
    t.mirror = if refusalOf s i = none then mirrorOf s.mirror i else s.mirror := by
  obtain ⟨accepted, rfl⟩ | ⟨code, refused, rfl⟩ := exec_idle_result idle h
  · rw [if_pos accepted, if_pos accepted]
    exact ⟨rfl, rfl⟩
  · simp [refused, idle]

theorem refusalOf_congr {s s' : State} (cfg : s.cfg = s'.cfg) (mirror : s.mirror = s'.mirror) (i : Instr) :
    refusalOf s i = refusalOf s' i := by
  cases i <;> simp only [refusalOf, cfg, mirror]

/-- `BLNK`, `CURS` and `DISP` read the mirror; no other instruction's refusal or trace does (R28). -/
theorem refusal_and_trace_of_cfg {i : Instr} (noBlnk : ∀ on, i ≠ .blnk on) (noCurs : ∀ on, i ≠ .curs on)
    (noDisp : ∀ on, i ≠ .disp on) {s s' : State} (cfg : s.cfg = s'.cfg) :
    refusalOf s i = refusalOf s' i ∧ ∀ m m', traceOf s.cfg m i = traceOf s'.cfg m' i := by
  cases i
  case blnk on => exact absurd rfl (noBlnk on)
  case curs on => exact absurd rfl (noCurs on)
  case disp on => exact absurd rfl (noDisp on)
  all_goals exact ⟨by simp only [refusalOf, cfg], fun _ _ => by simp only [traceOf, cfg]⟩

/-- Settles O52: the refusal and the trace are the same. -/
theorem traceDependsOnConfigurationAndMirror : Obligations.TraceDependsOnConfigurationAndMirror := by
  intro i s s' t t' idle idle' cfg h h'
  obtain ⟨seq, mirror⟩ := exec_idle_seq idle h
  obtain ⟨seq', mirror'⟩ := exec_idle_seq idle' h'
  refine ⟨fun same => ?_, fun noBlnk noCurs noDisp => ?_⟩
  · rw [seq, mirror, seq', mirror', refusalOf_congr cfg same i, cfg, same]
    exact ⟨rfl, rfl⟩
  · obtain ⟨refusal, trace⟩ := refusal_and_trace_of_cfg noBlnk noCurs noDisp cfg
    rw [seq, seq', refusal, trace]

end Sys2Proof.Machine
